-- ==== Sys2Proof/Word.lean ====
section
/-!
DEFINITION. The two widths of the block: the 8-bit value every register and operand fits in, and the 32-bit command
word (30_encoding.md R47; 20_memory.md R31).
-/

namespace Sys2Proof

/-- An 8-bit unsigned value: LatchState, a compare register, an operand field (10_state.md R10, R20; 30_encoding.md R48). -/
abbrev Byte := BitVec 8

/-- A 32-bit command word (30_encoding.md R47). -/
abbrev Word := BitVec 32

end Sys2Proof
end

