-- ==== Sys2Proof/Config.lean ====
section
/-!
DEFINITION. What an implementation fixes, and the values the spec leaves open: the identities of channels and pins,
the parameters of 00_scope.md R6, and the opaque constants that stand for the spec's unspecified value (written `⊥`).
Nothing here changes while the machine runs (10_state.md R27).
-/

namespace Sys2Proof

/-- A motor channel, numbered 1 to 4 (00_scope.md R5, `NCHAN`). -/
inductive Channel where
  | c1
  | c2
  | c3
  | c4
  deriving DecidableEq, Repr, Inhabited

/-- One of the eight pins, under the symbolic name the rules use (20_memory.md R35): the four control lines and the PWM pin
of each channel. -/
inductive Pin where
  | data
  | clk
  | latch
  | oe
  | pwm (n : Channel)
  deriving DecidableEq, Repr, Inhabited

/-- A hardware timer's id. The spec names none (00_scope.md R6, `timerOf`); a number tells one from another. -/
abbrev Timer := Nat

/-- A microcontroller family's id. The spec names none (00_scope.md R4 (f)). -/
abbrev Family := Nat

/-- The timers the four channels use, channel by channel, under one family's mapping (41_timer_backend.md R80). -/
def channelTimers (timerOf : Channel → Timer) : List Timer := [timerOf .c1, timerOf .c2, timerOf .c3, timerOf .c4]

/-- The open parameters of 00_scope.md R6 but for the chosen family, with the constraints R6 puts on them. The default values
only show that the constraints can be met together: the machine does not run at them. -/
structure Platform where
  /-- `A(n)`: the bit of LatchState that is channel n's A terminal (D26). -/
  bitA : Channel → Fin 8 := fun n => match n with | .c1 => 0 | .c2 => 2 | .c3 => 4 | .c4 => 6
  /-- `B(n)`: the bit of LatchState that is channel n's B terminal (D26). -/
  bitB : Channel → Fin 8 := fun n => match n with | .c1 => 1 | .c2 => 3 | .c3 => 5 | .c4 => 7
  /-- "the eight values are pairwise distinct". -/
  bits_distinct : [bitA .c1, bitB .c1, bitA .c2, bitB .c2, bitA .c3, bitB .c3, bitA .c4, bitB .c4].Nodup := by decide
  /-- `PIN_DATA`, `PIN_CLK`, `PIN_LATCH`, `PIN_OE`, `PIN_PWM(n)`: the number behind each symbolic pin (D27). No rule depends on it. -/
  pinNumber : Pin → Nat := fun p => match p with
    | .data => 0 | .clk => 1 | .latch => 2 | .oe => 3 | .pwm .c1 => 4 | .pwm .c2 => 5 | .pwm .c3 => 6 | .pwm .c4 => 7
  /-- The eight pins are pairwise distinct. -/
  pins_distinct : [pinNumber .data, pinNumber .clk, pinNumber .latch, pinNumber .oe, pinNumber (.pwm .c1),
    pinNumber (.pwm .c2), pinNumber (.pwm .c3), pinNumber (.pwm .c4)].Nodup := by decide
  /-- `OE_ACTIVE`: the level that makes the chip's output-enable line active (D28). -/
  oeActive : Bool := false
  /-- `SUPPORTED`: the families with a known timer mapping, "at least three" (D29). -/
  supported : List Family := [0, 1, 2]
  supported_distinct : supported.Nodup := by decide
  supported_three : 3 ≤ supported.length := by decide
  /-- `timerOf(FAMILY, n)`: the timer whose timebase channel n's compare channel uses. The compare channel is identified with n. -/
  timerOf : Family → Channel → Timer := fun f n =>
    match n with | .c1 => 4 * f + 1 | .c2 => 4 * f + 2 | .c3 => 4 * f + 3 | .c4 => 4 * f + 4
  /-- "the mapping differs per microcontroller family" (41_timer_backend.md R80): no two supported families have one mapping. -/
  mappings_distinct : (supported.map fun f => channelTimers (timerOf f)).Nodup := by decide
  /-- `SHARED(FAMILY, t)`: whether several PWM channels derive their timebase from timer t. -/
  shared : Family → Timer → Bool := fun f t => decide (2 ≤ (channelTimers (timerOf f)).count t)
  /-- A supported family's timer is shared exactly when it "is a timer from which multiple PWM channels derive their timebase"
  (41_timer_backend.md R80): when two of the four channels or more use it (log 23). -/
  shared_iff : ∀ f ∈ supported, ∀ t, shared f t = true ↔ 2 ≤ (channelTimers (timerOf f)).count t := by simp
  /-- `baseCfg(FAMILY, t, f)`: the timer base configuration ("period, prescaler") for frequency-divisor code f, which no rule
  interprets; a number stands for it (log 9). -/
  baseCfg : Family → Timer → Byte → Nat := fun _ _ f => f.toNat
  deriving Inhabited

/-- The parameters of one model instance: a platform and its family, which must be supported (41_timer_backend.md R86: "a model
instance for any other family does not exist"). -/
structure Params extends Platform where
  /-- `FAMILY`. -/
  family : Family := 0
  family_supported : family ∈ supported := by decide
  deriving Inhabited

namespace Config

/-- The parameters the machine runs at. OPEN in the spec (D26 to D29): nothing but R6's constraints can be proved of them
(log 1). -/
opaque params : Params

/-! The spec's unspecified value `⊥` in each register that 10_state.md R26 resets to it: one opaque constant a register, of which
nothing can be proved (log 2). -/

/-- `LS` at reset (D11: "a read is a draw (or a model fault), never 0"). -/
opaque resetLS : Byte
/-- `TBASE[t]` at reset (D36). -/
opaque resetTBASE : Timer → Byte
/-- `CMP[n]` at reset (D36). -/
opaque resetCMP : Channel → Byte
/-- `FREQ[n]` at reset (10_state.md R26). -/
opaque resetFREQ : Channel → Byte
/-- `PWMEN[n]` at reset (10_state.md R26). -/
opaque resetPWMEN : Channel → Bool
/-- `PINLVL[p]` at reset (D13). -/
opaque resetLevel : Pin → Bool
/-- The observer's `SR` at reset (D34). -/
opaque resetSR : Byte
/-- The observer's `Q` at reset (D34). -/
opaque resetQ : Byte
/-- The observer's `QEN` before the output-enable line is first written (60_exceptions.md R108, D34). -/
opaque resetQEN : Bool
/-- The k-th value drawn for `SR` where 60_exceptions.md R109 leaves it `⊥` in all bits (log 4). -/
opaque freeSR : Nat → Byte

end Config
end Sys2Proof
end

