-- ==== Sys2Proof/Syntax.lean ====
section
/-!
DEFINITION. The twelve commands as syntax (30_encoding.md R46, R48): one constructor for each row of spec/opcode_table.json. The
machine sees these, never an encoding.
-/

namespace Sys2Proof

/-- The direction operand (30_encoding.md R50). The reserved code 0b11 has no constructor: a word that holds it is illegal. -/
inductive Direction where
  | release
  | forward
  | backward
  deriving DecidableEq, Repr

/-- A command with its operands. A channel operand is the whole 8-bit field: a number outside 1 to 4 is a legal operand (R49). -/
inductive Instr where
  /-- `ENABLE` (40_latch_driver.md R60). -/
  | enable
  /-- `UPDATEBITS mask, value` (R61). -/
  | updateBits (mask value : Byte)
  /-- `TRANSMIT` (R62). -/
  | transmit
  /-- `HOLD` (R63). -/
  | hold
  /-- `RELEASE` (R64). -/
  | release
  /-- `GETSTATE` (R65). -/
  | getState
  /-- `SETSTATE value` (R66). -/
  | setState (value : Byte)
  /-- `PWMINIT ch, freq, pwm` (41_timer_backend.md R81). -/
  | pwmInit (ch freq : Byte) (pwm : Bool)
  /-- `PWMSET ch, duty` (R83). -/
  | pwmSet (ch duty : Byte)
  /-- `CONSTRUCT ch, freq, pwm` (42_motor_channel.md R90). -/
  | construct (ch freq : Byte) (pwm : Bool)
  /-- `SETDIR ch, dir` (R91). -/
  | setDir (ch : Byte) (dir : Direction)
  /-- `SETSPEED ch, duty` (R92). -/
  | setSpeed (ch duty : Byte)
  deriving DecidableEq, Repr

/-- The four 8-bit fields of the one format `CMD` (30_encoding.md R47). -/
structure Fields where
  op : Byte
  a : Byte
  b : Byte
  c : Byte
  deriving DecidableEq, Repr

/-- Why a word is illegal (30_encoding.md R53). -/
inductive IllegalReason where
  /-- Opcode 0x00 or 0x0D to 0xFF. -/
  | unassignedOpcode
  /-- A nonzero bit in a field the operation does not use. -/
  | unusedFieldNonzero
  /-- `SETDIR` with `dir = 0b11`. -/
  | reservedDirection
  deriving DecidableEq, Repr

/-- What a word decodes to: "either to exactly one operation with its operands or to `Illegal`" (30_encoding.md R53). -/
inductive Decoded where
  | legal (i : Instr)
  | illegal (why : IllegalReason)
  deriving DecidableEq, Repr

/-- The seven public commands (30_encoding.md R46, column "public"). -/
def Instr.isPublic : Instr → Bool
  | .enable => false
  | .updateBits _ _ => false
  | .transmit => false
  | .hold => true
  | .release => true
  | .getState => true
  | .setState _ => true
  | .pwmInit _ _ _ => false
  | .pwmSet _ _ => false
  | .construct _ _ _ => true
  | .setDir _ _ => true
  | .setSpeed _ _ => true

end Sys2Proof
end

