-- ==== Sys2Proof/WellFormed.lean ====
section
/-!
DEFINITION. Which command words are well formed, read off the opcode map of 30_encoding.md R52 by match and mask, with no use of
the decoder. A term of `Instr` needs no check of its own: its operand types hold exactly what a legal word can spell.
-/

namespace Sys2Proof

/-- One row of the opcode map: a word w spells the operation iff `(w & mask) = match` (30_encoding.md R52). -/
structure OpcodeRow where
  mnemonic : String
  matchBits : Word
  maskBits : Word
  deriving DecidableEq, Repr

/-- The opcode map (30_encoding.md R52; spec/opcode_table.json). -/
def opcodeRows : List OpcodeRow :=
  [ ⟨"ENABLE", 0x01000000#32, 0xFFFFFFFF#32⟩
  , ⟨"UPDATEBITS", 0x02000000#32, 0xFF0000FF#32⟩
  , ⟨"TRANSMIT", 0x03000000#32, 0xFFFFFFFF#32⟩
  , ⟨"HOLD", 0x04000000#32, 0xFFFFFFFF#32⟩
  , ⟨"RELEASE", 0x05000000#32, 0xFFFFFFFF#32⟩
  , ⟨"GETSTATE", 0x06000000#32, 0xFFFFFFFF#32⟩
  , ⟨"SETSTATE", 0x07000000#32, 0xFF00FFFF#32⟩
  , ⟨"PWMINIT", 0x08000000#32, 0xFF0000FE#32⟩
  , ⟨"PWMSET", 0x09000000#32, 0xFF0000FF#32⟩
  , ⟨"CONSTRUCT", 0x0A000000#32, 0xFF0000FE#32⟩
  , ⟨"SETDIR", 0x0B000000#32, 0xFF00FCFF#32⟩
  , ⟨"SETSPEED", 0x0C000000#32, 0xFF0000FF#32⟩ ]

/-- The word matches the row's fixed bits. -/
def OpcodeRow.spells (r : OpcodeRow) (w : Word) : Bool := w &&& r.maskBits == r.matchBits

/-- The one constraint beside the rows: a `SETDIR` word has `w[9:8] ≠ 0b11` (30_encoding.md R52). -/
def directionAllowed (w : Word) : Bool :=
  !(w &&& 0xFF000000#32 == 0x0B000000#32 && w &&& 0x00000300#32 == 0x00000300#32)

/-- The word is legal: it matches a row of the opcode map and holds no reserved direction (30_encoding.md R52, R53). -/
def wellFormedWord (w : Word) : Bool := opcodeRows.any (fun r => r.spells w) && directionAllowed w

end Sys2Proof
end

