-- ==== Sys2Proof/Decode.lean ====
section
/-!
DEFINITION. The decoder and the encoder (30_encoding.md R47 to R59). Decoding is total on the 32-bit words and rejects by name.
-/

namespace Sys2Proof

/-- The fields of a command word: `word = {op, a, b, c}` (30_encoding.md R47). -/
def Fields.ofWord (w : Word) : Fields :=
  { op := w.extractLsb' 24 8, a := w.extractLsb' 16 8, b := w.extractLsb' 8 8, c := w.extractLsb' 0 8 }

/-- The command word of four fields, `op << 24 | a << 16 | b << 8 | c` (30_encoding.md R47). -/
def Fields.toWord (f : Fields) : Word :=
  f.op.setWidth 32 <<< 24 ||| f.a.setWidth 32 <<< 16 ||| f.b.setWidth 32 <<< 8 ||| f.c.setWidth 32

/-- The direction a 2-bit code names (30_encoding.md R50); 0b11 names none. -/
def Direction.ofCode (r : BitVec 2) : Option Direction :=
  match r with
  | 0b00#2 => some .release
  | 0b01#2 => some .forward
  | 0b10#2 => some .backward
  | _ => none

/-- The 2-bit code of a direction, the bit pair `{B, A}` it produces (30_encoding.md R50). -/
def Direction.code : Direction → BitVec 2
  | .release => 0b00#2
  | .forward => 0b01#2
  | .backward => 0b10#2

/-- The operation if its unused fields are zero, else illegal (30_encoding.md R47, R53). -/
def whenUnusedZero (unused : Bool) (i : Instr) : Decoded :=
  if unused then .legal i else .illegal .unusedFieldNonzero

/-- The operation the four fields spell (30_encoding.md R59). -/
def decodeFields (f : Fields) : Decoded :=
  match f.op with
  | 0x01#8 => whenUnusedZero (f.a == 0#8 && f.b == 0#8 && f.c == 0#8) .enable
  | 0x02#8 => whenUnusedZero (f.c == 0#8) (.updateBits f.a f.b)
  | 0x03#8 => whenUnusedZero (f.a == 0#8 && f.b == 0#8 && f.c == 0#8) .transmit
  | 0x04#8 => whenUnusedZero (f.a == 0#8 && f.b == 0#8 && f.c == 0#8) .hold
  | 0x05#8 => whenUnusedZero (f.a == 0#8 && f.b == 0#8 && f.c == 0#8) .release
  | 0x06#8 => whenUnusedZero (f.a == 0#8 && f.b == 0#8 && f.c == 0#8) .getState
  | 0x07#8 => whenUnusedZero (f.b == 0#8 && f.c == 0#8) (.setState f.a)
  | 0x08#8 => whenUnusedZero (f.c.extractLsb' 1 7 == 0#7) (.pwmInit f.a f.b (f.c.getLsbD 0))
  | 0x09#8 => whenUnusedZero (f.c == 0#8) (.pwmSet f.a f.b)
  | 0x0A#8 => whenUnusedZero (f.c.extractLsb' 1 7 == 0#7) (.construct f.a f.b (f.c.getLsbD 0))
  | 0x0B#8 =>
    match Direction.ofCode (f.b.extractLsb' 0 2) with
    | some dir => whenUnusedZero (f.b.extractLsb' 2 6 == 0#6 && f.c == 0#8) (.setDir f.a dir)
    | none => .illegal .reservedDirection
  | 0x0C#8 => whenUnusedZero (f.c == 0#8) (.setSpeed f.a f.b)
  | _ => .illegal .unassignedOpcode

/-- The operation a command word spells (30_encoding.md R59). -/
def decode (w : Word) : Decoded := decodeFields (Fields.ofWord w)

/-- The `c` field of a PWM-enabled flag: bits 7:1 zero, bit 0 the flag (30_encoding.md R48). -/
def pwmField (pwm : Bool) : Byte := if pwm then 0x01#8 else 0x00#8

/-- The `b` field of a direction: bits 7:2 zero, bits 1:0 its code (30_encoding.md R48). -/
def dirField (dir : Direction) : Byte := 0#6 ++ dir.code

/-- The fields of an operation (30_encoding.md R48, R52). -/
def encodeFields : Instr → Fields
  | .enable => ⟨0x01#8, 0#8, 0#8, 0#8⟩
  | .updateBits mask value => ⟨0x02#8, mask, value, 0#8⟩
  | .transmit => ⟨0x03#8, 0#8, 0#8, 0#8⟩
  | .hold => ⟨0x04#8, 0#8, 0#8, 0#8⟩
  | .release => ⟨0x05#8, 0#8, 0#8, 0#8⟩
  | .getState => ⟨0x06#8, 0#8, 0#8, 0#8⟩
  | .setState value => ⟨0x07#8, value, 0#8, 0#8⟩
  | .pwmInit ch freq pwm => ⟨0x08#8, ch, freq, pwmField pwm⟩
  | .pwmSet ch duty => ⟨0x09#8, ch, duty, 0#8⟩
  | .construct ch freq pwm => ⟨0x0A#8, ch, freq, pwmField pwm⟩
  | .setDir ch dir => ⟨0x0B#8, ch, dirField dir, 0#8⟩
  | .setSpeed ch duty => ⟨0x0C#8, ch, duty, 0#8⟩

/-- The command word of an operation, the inverse of `decode` on the legal operations (30_encoding.md R59). -/
def encode (i : Instr) : Word := (encodeFields i).toWord

/-- The operation a decoding gives, if it gives one. -/
def Decoded.instr? : Decoded → Option Instr
  | .legal i => some i
  | .illegal _ => none

/-- The command word whose low `nbits` bits are those of `w` and whose other bits are zero. A word is presented whole, so there is
no byte order to undo (20_memory.md R31). -/
def tableWord (nbits w : Nat) : Word := BitVec.ofNat 32 (w % 2 ^ nbits)

/-- The operation the decoder reads from a word numbered as spec/opcode_table.json numbers it. -/
def decodeTableWord (nbits w : Nat) : Option Instr := (decode (tableWord nbits w)).instr?

end Sys2Proof
end

