-- ==== Sys2Proof/Machine/State.lean ====
section
/-!
DEFINITION. The machine's state as plain data, the reasons a run stops, and the state after reset (10_state.md; 60_exceptions.md
R108; 30_encoding.md R58).
-/

namespace Sys2Proof.Machine

/-- One value for each motor channel (10_state.md R17, R20, R21). -/
structure PerChannel (α : Type) where
  c1 : α
  c2 : α
  c3 : α
  c4 : α
  deriving DecidableEq, Repr

/-- One value for each of the eight pins (10_state.md R23). -/
structure PerPin (α : Type) where
  data : α
  clk : α
  latch : α
  oe : α
  pwm : PerChannel α
  deriving DecidableEq, Repr

/-- How a channel's PWM pin is driven (10_state.md R19). -/
inductive PMode where
  | unconfigured
  | pwm
  | digital
  deriving DecidableEq, Repr

/-- A pin's direction (10_state.md R23). -/
inductive PinDir where
  | unconfigured
  | output
  deriving DecidableEq, Repr

/-- An outward event (00_scope.md R8): `C(p)`, `W(p,l)`, `TB(t,f)`, `TC(n)`, `OC(n,v)`. -/
inductive Event where
  | cfg (p : Pin)
  | write (p : Pin) (level : Bool)
  | timerBase (t : Timer) (f : Byte)
  | chanPwm (n : Channel)
  | cmp (n : Channel) (v : Byte)
  deriving DecidableEq, Repr

/-- The state of the block, of the latch-chip observer, and of the model's own records (10_state.md R10 to R25; 60_exceptions.md
R108; 30_encoding.md R45, R58; 70_reset_and_hazards.md R135). -/
@[ext]
structure State where
  /-- `LS`, LatchState (R10). -/
  ls : Byte
  /-- `HOLD`, the hold flag (R14). -/
  hold : Bool
  /-- `EN`, whether `ENABLE` has run (R15). -/
  en : Bool
  /-- `TINIT[t]` (R16): the timers whose flag is 1, in rising order; a timer not listed has flag 0 (log 8). -/
  tinit : List (Timer × Bool)
  /-- `TBASE[t]` (R18): the timers whose base was programmed, in rising order; one not listed holds its reset value (log 8). -/
  tbase : List (Timer × Byte)
  /-- `PMODE[n]` (R19). -/
  pmode : PerChannel PMode
  /-- `CMP[n]` (R20). -/
  cmp : PerChannel Byte
  /-- `CONS[n]` (R21). -/
  cons : PerChannel Bool
  /-- `FREQ[n]` (R21). -/
  freq : PerChannel Byte
  /-- `PWMEN[n]` (R21). -/
  pwmen : PerChannel Bool
  /-- `PINDIR[p]` (R23). -/
  pinDir : PerPin PinDir
  /-- `PINLVL[p]` (R23). -/
  pinLvl : PerPin Bool
  /-- Whether `PINLVL[p]` has been written, that is, is no longer `⊥` (R23; log 3). -/
  pinWritten : PerPin Bool
  /-- Observer `SR`, the chip's shift stage (R108). -/
  sr : Byte
  /-- Observer `Q`, the chip's output stage (R108). -/
  q : Byte
  /-- Observer `QEN`, whether the chip's outputs are driven (R108). -/
  qen : Bool
  /-- `TRACE`, the event history, oldest first: the model's record (R24). -/
  trace : List Event
  /-- The response port: a value valid until the next command is issued, or none valid (R58; log 6). -/
  response : Option Byte
  /-- The response values in order, a record of the run (R135; log 6). -/
  responses : List Byte
  /-- The words the host has yet to present, first to be presented first: the model's own field for the host (R45; log 5). -/
  commands : List Word
  /-- How many free values have been drawn: the model's own field (log 4). -/
  draws : Nat
  deriving DecidableEq, Repr

/-- A fault of the machine. There is none: "The block raises no synchronous exception and has no cause codes" (60_exceptions.md
R100), so no instruction raises one. -/
inductive Fault where
  deriving DecidableEq, Repr

/-- Why the spec gives a use no meaning: the closed list of 00_scope.md R9. A refused run has no continuation, so each is safe. -/
inductive Refusal where
  /-- The interface's own name for an instruction the model does not have. No instruction answers it. Safe. -/
  | notModelled (mnemonic : String)
  /-- A word that spells no operation (30_encoding.md R53, D4). Raised by `step`, before anything else. Safe. -/
  | illegalCommand
  /-- A write to a pin that is no output (D13). Raised by `PinWrite`, so by TRANSMIT, RELEASE, SETSTATE, SETDIR, CONSTRUCT when
  `HOLD = 0` and the control pins are not configured; by PWMSET and SETSPEED only in states no run reaches. Safe. -/
  | pinNotConfigured (p : Pin)
  /-- `ENABLE` when `EN = 1` (D16). Raised by ENABLE. Safe. -/
  | enableTwice
  /-- `CONSTRUCT` of a channel already constructed (D18). Raised by CONSTRUCT. Safe. -/
  | constructTwice
  /-- `SETDIR` or `SETSPEED` of a valid channel never constructed (D19). Raised by SETDIR and SETSPEED. Safe. -/
  | channelNotConstructed
  /-- `PWMSET` of a valid channel whose PWM pin was never initialised (D19). Raised by PWMSET, and by SETSPEED only in states no
  run reaches. Safe. -/
  | channelNotConfigured
  /-- A family outside `SUPPORTED` (41_timer_backend.md R86, D29). Raised by `configure`, before any command; by no instruction. Safe. -/
  | unsupportedFamily
  deriving DecidableEq, Repr

/-- What a command gives: the next state or a refusal (00_scope.md R9). -/
abbrev Result := Host.Outcome State Fault Refusal

/-- The machine right after power-on (10_state.md R26; 70_reset_and_hazards.md R120). Where R26 says `⊥` the value is an opaque
constant of Config (log 2). -/
def State.reset : State where
  ls := Config.resetLS
  hold := false
  en := false
  tinit := []
  tbase := []
  pmode := ⟨.unconfigured, .unconfigured, .unconfigured, .unconfigured⟩
  cmp := ⟨Config.resetCMP .c1, Config.resetCMP .c2, Config.resetCMP .c3, Config.resetCMP .c4⟩
  cons := ⟨false, false, false, false⟩
  freq := ⟨Config.resetFREQ .c1, Config.resetFREQ .c2, Config.resetFREQ .c3, Config.resetFREQ .c4⟩
  pwmen := ⟨Config.resetPWMEN .c1, Config.resetPWMEN .c2, Config.resetPWMEN .c3, Config.resetPWMEN .c4⟩
  pinDir := ⟨.unconfigured, .unconfigured, .unconfigured, .unconfigured,
    ⟨.unconfigured, .unconfigured, .unconfigured, .unconfigured⟩⟩
  pinLvl := ⟨Config.resetLevel .data, Config.resetLevel .clk, Config.resetLevel .latch, Config.resetLevel .oe,
    ⟨Config.resetLevel (.pwm .c1), Config.resetLevel (.pwm .c2), Config.resetLevel (.pwm .c3), Config.resetLevel (.pwm .c4)⟩⟩
  pinWritten := ⟨false, false, false, false, ⟨false, false, false, false⟩⟩
  sr := Config.resetSR
  q := Config.resetQ
  qen := Config.resetQEN
  trace := []
  response := none
  responses := []
  commands := []
  draws := 0

end Sys2Proof.Machine
end

