-- ==== Sys2Proof/Machine/Operands.lean ====
section
/-!
DEFINITION. Reading and writing one entry of a register file, and every operand form: the channel number, the direction and its
bit masks, the duty, its threshold and its fraction (30_encoding.md R48 to R51; 41_timer_backend.md R80, R84, R85; 42_motor_channel.md R96).
-/

namespace Sys2Proof.Machine

/-- Channel n's entry. -/
def PerChannel.get {α : Type} (v : PerChannel α) : Channel → α
  | .c1 => v.c1
  | .c2 => v.c2
  | .c3 => v.c3
  | .c4 => v.c4

/-- The file with channel n's entry replaced. -/
def PerChannel.set {α : Type} (v : PerChannel α) (n : Channel) (x : α) : PerChannel α :=
  match n with
  | .c1 => { v with c1 := x }
  | .c2 => { v with c2 := x }
  | .c3 => { v with c3 := x }
  | .c4 => { v with c4 := x }

/-- Pin p's entry. -/
def PerPin.get {α : Type} (v : PerPin α) : Pin → α
  | .data => v.data
  | .clk => v.clk
  | .latch => v.latch
  | .oe => v.oe
  | .pwm n => v.pwm.get n

/-- The file with pin p's entry replaced. -/
def PerPin.set {α : Type} (v : PerPin α) (p : Pin) (x : α) : PerPin α :=
  match p with
  | .data => { v with data := x }
  | .clk => { v with clk := x }
  | .latch => { v with latch := x }
  | .oe => { v with oe := x }
  | .pwm n => { v with pwm := v.pwm.set n x }

/-- The value listed for timer t, if one is. -/
def timerLookup {α : Type} (t : Timer) : List (Timer × α) → Option α
  | [] => none
  | (k, x) :: rest => if k = t then some x else timerLookup t rest

/-- The list with timer t's value put at its place in the rising order. -/
def timerPut {α : Type} (t : Timer) (x : α) : List (Timer × α) → List (Timer × α)
  | [] => [(t, x)]
  | (k, y) :: rest =>
    if k < t then (k, y) :: timerPut t x rest
    else if k = t then (t, x) :: rest
    else (t, x) :: (k, y) :: rest

/-- A channel's number, 1 to 4 (30_encoding.md R49). -/
def channelNumber : Channel → Byte
  | .c1 => 1#8
  | .c2 => 2#8
  | .c3 => 3#8
  | .c4 => 4#8

/-- The channel a channel operand names; none for an invalid channel number (30_encoding.md R49). -/
def channelOf (ch : Byte) : Option Channel :=
  match ch with
  | 1#8 => some .c1
  | 2#8 => some .c2
  | 3#8 => some .c3
  | 4#8 => some .c4
  | _ => none

/-- `1 << k`, the 8-bit value with only bit k set (00_scope.md, notation). -/
def oneBit (k : Fin 8) : Byte := 1#8 <<< k.val

/-- `MASK(n) = (1 << A(n)) | (1 << B(n))` (42_motor_channel.md). -/
def channelMask (P : Params) (n : Channel) : Byte := oneBit (P.bitA n) ||| oneBit (P.bitB n)

/-- The `UPDATEBITS` value of a direction for channel n (42_motor_channel.md R91, R96). -/
def directionValue (P : Params) (n : Channel) : Direction → Byte
  | .forward => oneBit (P.bitA n)
  | .backward => oneBit (P.bitB n)
  | .release => 0#8

/-- The fallback level of a duty: high iff `duty > 127`, unsigned (41_timer_backend.md R84). -/
def dutyLevel (duty : Byte) : Bool := decide (127 < duty.toNat)

/-- The fraction of each PWM period during which a hardware PWM pin is high, `CMP[n] / 255` (41_timer_backend.md R85). -/
def dutyFraction (compare : Byte) : Rat := compare.toNat / 255

/-- `timerOf(FAMILY, n)` (41_timer_backend.md R80). -/
def channelTimer (P : Params) (n : Channel) : Timer := P.timerOf P.family n

/-- `SHARED(FAMILY, t)` (41_timer_backend.md R80). -/
def timerShared (P : Params) (t : Timer) : Bool := P.shared P.family t

end Sys2Proof.Machine
end

