-- ==== Sys2Proof/Machine/Flags.lean ====
section
/-!
DEFINITION. The flags: reading and writing `HOLD`, `EN`, `TINIT[t]` and `CONS[n]` (10_state.md R14 to R17, R21).
-/

namespace Sys2Proof.Machine

/-- `HOLD <- b` (10_state.md R14). -/
def setHold (b : Bool) (s : State) : State := { s with hold := b }

/-- `EN <- 1` (10_state.md R15); nothing clears it. -/
def setEnabled (s : State) : State := { s with en := true }

/-- `TINIT[t]` (10_state.md R16). -/
def timerInitialised (t : Timer) (s : State) : Bool := (timerLookup t s.tinit).getD false

/-- `TINIT[t] <- 1` (10_state.md R16); nothing clears it. -/
def setTimerInitialised (t : Timer) (s : State) : State := { s with tinit := timerPut t true s.tinit }

/-- `CONS[n] <- 1; FREQ[n] <- freq; PWMEN[n] <- pwm` (42_motor_channel.md R90). -/
def recordChannel (n : Channel) (freq : Byte) (pwm : Bool) (s : State) : State :=
  { s with cons := s.cons.set n true, freq := s.freq.set n freq, pwmen := s.pwmen.set n pwm }

end Sys2Proof.Machine
end

