-- ==== Sys2Proof/Machine/Ops.lean ====
section
/-!
DEFINITION. The operations the commands share: the five device primitives of 00_scope.md R8, the latch-chip observer of
60_exceptions.md R108 to R111, one transmission, the masked update of LatchState, the once-only enabling, the command and
response ports, and the choice of a family. Each takes the parameters of 00_scope.md R6 as an argument where it reads one.
There is no exception to take and none to return from (60_exceptions.md R100, R104, R105).
-/

namespace Sys2Proof.Machine

/-- Then: the second operation runs on the state the first leaves; a stop of the first is the stop of both. -/
def andThen (r : Result) (next : State → Result) : Result :=
  match r with
  | .next s => next s
  | .fault f => .fault f
  | .refused why => .refused why

/-! ## Device primitives -/

/-- Append an event to `TRACE` (10_state.md R24). -/
def record (e : Event) (s : State) : State := { s with trace := s.trace ++ [e] }

/-- `PinCfg(p)`: the pin becomes an output; its level is not changed (00_scope.md R8, 10_state.md R23). -/
def pinCfg (p : Pin) (s : State) : State := record (.cfg p) { s with pinDir := s.pinDir.set p .output }

/-- `SR <- {SR[6:0], d}` (60_exceptions.md R109). -/
def shiftIn (sr : Byte) (d : Bool) : Byte := (sr.setWidth 7).concat d

/-- The observer at a write of the clock line, the levels in `s` being those before the write (60_exceptions.md R109): a rising
edge shifts; a high written over a level that is `⊥` leaves `SR` a free value (log 4); anything else shifts nothing. -/
def observeClock (level : Bool) (s : State) : State :=
  if level then
    if s.pinWritten.clk then
      if s.pinLvl.clk then s else { s with sr := shiftIn s.sr s.pinLvl.data }
    else { s with sr := Config.freeSR s.draws, draws := s.draws + 1 }
  else s

/-- The observer at a write of the latch line: a rising edge commits (60_exceptions.md R110). -/
def observeLatch (level : Bool) (s : State) : State :=
  if level && !s.pinLvl.latch then { s with q := s.sr } else s

/-- The observer at a write of the output-enable line: the outputs are driven iff it is active (60_exceptions.md R108). -/
def observeOutputEnable (P : Params) (level : Bool) (s : State) : State := { s with qen := level == P.oeActive }

/-- The observer's reaction to `W(p, level)`, the levels in `s` being those before the write (60_exceptions.md R108 to R110). -/
def observe (P : Params) (p : Pin) (level : Bool) (s : State) : State :=
  match p with
  | .clk => observeClock level s
  | .latch => observeLatch level s
  | .oe => observeOutputEnable P level s
  | .data => s
  | .pwm _ => s

/-- `PINLVL[p] <- level` (10_state.md R23). -/
def setLevel (p : Pin) (level : Bool) (s : State) : State :=
  { s with pinLvl := s.pinLvl.set p level, pinWritten := s.pinWritten.set p true }

/-- `PinWrite(p, level)` (00_scope.md R8): refused unless the pin is an output (D13). -/
def pinWrite (P : Params) (p : Pin) (level : Bool) (s : State) : Result :=
  match s.pinDir.get p with
  | .output => .next (record (.write p level) (setLevel p level (observe P p level s)))
  | .unconfigured => .refused (.pinNotConfigured p)

/-- `PinWrite`s in order (10_state.md R13). -/
def pinWrites (P : Params) : List (Pin × Bool) → State → Result
  | [], s => .next s
  | (p, level) :: rest, s => andThen (pinWrite P p level s) (pinWrites P rest)

/-- `TBASE[t]` (10_state.md R18). -/
def timerBase (t : Timer) (s : State) : Byte := (timerLookup t s.tbase).getD (Config.resetTBASE t)

/-- What is programmed into timer t, as far as the spec says it: `baseCfg(FAMILY, t, TBASE[t])` (00_scope.md R8). -/
def timerConfiguration (P : Params) (t : Timer) (s : State) : Nat := P.baseCfg P.family t (timerBase t s)

/-- `TimerBaseCfg(t, f)` (00_scope.md R8). -/
def timerBaseCfg (t : Timer) (f : Byte) (s : State) : State :=
  record (.timerBase t f) { s with tbase := timerPut t f s.tbase }

/-- `PMODE[n] <- m` (10_state.md R19). -/
def setMode (n : Channel) (m : PMode) (s : State) : State := { s with pmode := s.pmode.set n m }

/-- `ChanPwmCfg(n)` (00_scope.md R8). -/
def chanPwmCfg (n : Channel) (s : State) : State := record (.chanPwm n) (setMode n .pwm s)

/-- `CmpWrite(n, v)` (00_scope.md R8). -/
def cmpWrite (n : Channel) (v : Byte) (s : State) : State := record (.cmp n v) { s with cmp := s.cmp.set n v }

/-! ## LatchState and its transmission -/

/-- `LS <- v` (10_state.md R10). -/
def setLatchState (v : Byte) (s : State) : State := { s with ls := v }

/-- The body of `UPDATEBITS`: `LS <- (LS & ~mask) | value` (40_latch_driver.md R61). -/
def maskedUpdate (mask value : Byte) (s : State) : State := setLatchState ((s.ls &&& ~~~mask) ||| value) s

/-- The three writes of the i-th bit group: clock low, data `v[7 - i]`, clock high (40_latch_driver.md R62). -/
def bitGroup (v : Byte) (i : Nat) : List (Pin × Bool) := [(.clk, false), (.data, v.getLsbD (7 - i)), (.clk, true)]

/-- The 26 pin writes of one burst of v, most significant bit first between latch low and latch high (40_latch_driver.md R62). -/
def burstWrites (v : Byte) : List (Pin × Bool) :=
  (.latch, false) :: ([0, 1, 2, 3, 4, 5, 6, 7].flatMap (bitGroup v) ++ [(.latch, true)])

/-- One transmission burst of LatchState, whatever `HOLD` is (40_latch_driver.md R62). -/
def burst (P : Params) (s : State) : Result := pinWrites P (burstWrites s.ls) s

/-- The body of `TRANSMIT`: nothing while held, else one burst (40_latch_driver.md R62). -/
def transmission (P : Params) (s : State) : Result := if s.hold then .next s else burst P s

/-- The pin write of step `seq` of a burst of v, in the small-step form (40_latch_driver.md R70). -/
def burstStepWrite (v : Byte) (seq : Nat) : Pin × Bool :=
  if seq = 0 then (.latch, false)
  else if seq = 25 then (.latch, true)
  else
    match (seq - 1) % 3 with
    | 0 => (.clk, false)
    | 1 => (.data, v.getLsbD (7 - (seq - 1) / 3))
    | _ => (.clk, true)

/-- Step `seq` of a burst of LatchState (40_latch_driver.md R70). -/
def burstStep (P : Params) (seq : Nat) (s : State) : Result :=
  pinWrite P (burstStepWrite s.ls seq).1 (burstStepWrite s.ls seq).2 s

/-- The steps of a burst with the given positions, in order (40_latch_driver.md R70). -/
def burstSteps (P : Params) : List Nat → State → Result
  | [], s => .next s
  | seq :: rest, s => andThen (burstStep P seq s) (burstSteps P rest)

/-- The four control lines made outputs, in the order data, clock, latch-enable, output-enable (40_latch_driver.md R60, D15). -/
def configureControl (s : State) : State := pinCfg .oe (pinCfg .latch (pinCfg .clk (pinCfg .data s)))

/-- The body of `ENABLE` (40_latch_driver.md R60): refused when `EN = 1` (D16); its transmission is gated by `HOLD` (D14). -/
def enabling (P : Params) (s : State) : Result :=
  if s.en then .refused .enableTwice
  else
    andThen (transmission P (setLatchState 0#8 (configureControl s))) fun s1 =>
    andThen (pinWrite P .oe P.oeActive s1) fun s2 => .next (setEnabled s2)

/-! ## The ports and the configuration -/

/-- `respond(v)`: the value stands on the response port (30_encoding.md R58) and in the record of the run
(70_reset_and_hazards.md R135). -/
def respond (v : Byte) (s : State) : State := { s with response := some v, responses := s.responses ++ [v] }

/-- The command port takes the next word the host presents (30_encoding.md R45): the word, and the state in which its operation
runs. A response is valid only "until the next command is issued" (R58). None when the host presents nothing. -/
def issue (s : State) : Option (Word × State) :=
  match s.commands with
  | [] => none
  | w :: rest => some (w, { s with commands := rest, response := none })

/-- The host presents one more word, before those it has yet to present (30_encoding.md R45). -/
def present (w : Word) (s : State) : State := { s with commands := w :: s.commands }

/-- The latch chip's output line k: `Q[k]` when the outputs are driven (60_exceptions.md R108). -/
def outputLine (k : Fin 8) (s : State) : Option Bool := if s.qen then some (s.q.getLsbD k.val) else none

/-- The model instance of a platform for a family: none, refused by name, for an unsupported one (41_timer_backend.md R86). -/
def configure (p : Platform) (f : Family) : Host.Outcome Params Fault Refusal :=
  if h : f ∈ p.supported then .next { toPlatform := p, family := f, family_supported := h }
  else .refused .unsupportedFamily

end Sys2Proof.Machine
end

