-- ==== Sys2Proof/Machine/LatchDriver.lean ====
section
/-!
DEFINITION. The meanings of the LatchDriver's seven commands (40_latch_driver.md R60 to R66).
-/

namespace Sys2Proof.Machine

/-- `ENABLE` (40_latch_driver.md R60). -/
def execEnable (s : State) : Result := enabling Config.params s

/-- `UPDATEBITS mask, value`: no pin is touched (40_latch_driver.md R61). -/
def execUpdateBits (mask value : Byte) (s : State) : Result := .next (maskedUpdate mask value s)

/-- `TRANSMIT` (40_latch_driver.md R62). -/
def execTransmit (s : State) : Result := transmission Config.params s

/-- `HOLD` (40_latch_driver.md R63). -/
def execHold (s : State) : Result := .next (setHold true s)

/-- `RELEASE`: the flag is cleared before the transmission (40_latch_driver.md R64). -/
def execRelease (s : State) : Result := transmission Config.params (setHold false s)

/-- `GETSTATE` (40_latch_driver.md R65). -/
def execGetState (s : State) : Result := .next (respond s.ls s)

/-- `SETSTATE value` (40_latch_driver.md R66). -/
def execSetState (value : Byte) (s : State) : Result := transmission Config.params (setLatchState value s)

end Sys2Proof.Machine
end

