-- ==== Sys2Proof/Machine/TimerBackend.lean ====
section
/-!
DEFINITION. The TimerBackend: initialising one channel's PWM pin and setting one channel's duty (41_timer_backend.md R81 to R85).
-/

namespace Sys2Proof.Machine

/-- The base configuration of channel n's timer, programmed once for a shared timer and on every initialisation for one that is
not (41_timer_backend.md R81, R82). -/
def programBase (P : Params) (n : Channel) (freq : Byte) (s : State) : State :=
  if timerShared P (channelTimer P n) && timerInitialised (channelTimer P n) s then s
  else setTimerInitialised (channelTimer P n) (timerBaseCfg (channelTimer P n) freq s)

/-- The body of `PWMINIT` for a valid channel (41_timer_backend.md R81): hardware PWM from 0 % duty, or the digital fallback. -/
def initialisePwm (P : Params) (n : Channel) (freq : Byte) (pwm : Bool) (s : State) : State :=
  if pwm then cmpWrite n 0#8 (chanPwmCfg n (programBase P n freq s))
  else setMode n .digital (pinCfg (.pwm n) s)

/-- The body of `PWMSET` for a valid channel (41_timer_backend.md R83): refused when the channel is unconfigured (D19). -/
def writeDuty (P : Params) (n : Channel) (duty : Byte) (s : State) : Result :=
  match s.pmode.get n with
  | .pwm => .next (cmpWrite n duty s)
  | .digital => pinWrite P (.pwm n) (dutyLevel duty) s
  | .unconfigured => .refused .channelNotConfigured

/-- `PWMINIT ch, freq, pwm` (41_timer_backend.md R81); an invalid channel is a silent no-op (D21). -/
def execPwmInit (ch freq : Byte) (pwm : Bool) (s : State) : Result :=
  match channelOf ch with
  | some n => .next (initialisePwm Config.params n freq pwm s)
  | none => .next s

/-- `PWMSET ch, duty` (41_timer_backend.md R83); an invalid channel is a silent no-op (D21). -/
def execPwmSet (ch duty : Byte) (s : State) : Result :=
  match channelOf ch with
  | some n => writeDuty Config.params n duty s
  | none => .next s

end Sys2Proof.Machine
end

