-- ==== Sys2Proof/Machine/MotorChannel.lean ====
section
/-!
DEFINITION. The MotorChannel: constructing a channel, its direction and its speed (42_motor_channel.md R90 to R93).
-/

namespace Sys2Proof.Machine

/-- The lazy enabling of the first construction (42_motor_channel.md R90). -/
def lazyEnable (P : Params) (s : State) : Result := if s.en then .next s else enabling P s

/-- The channel's own part of `CONSTRUCT` (42_motor_channel.md R90): direction bits cleared and transmitted (D20), PWM pin
initialised, the channel recorded. -/
def constructChannel (P : Params) (n : Channel) (freq : Byte) (pwm : Bool) (s : State) : Result :=
  andThen (transmission P (maskedUpdate (channelMask P n) 0#8 s)) fun s1 =>
    .next (recordChannel n freq pwm (initialisePwm P n freq pwm s1))

/-- `CONSTRUCT` under the parameters P (42_motor_channel.md R90): a valid channel is refused a second time (D18); an invalid one
still enables (D17). -/
def construction (P : Params) (ch freq : Byte) (pwm : Bool) (s : State) : Result :=
  match channelOf ch with
  | some n =>
    if s.cons.get n then .refused .constructTwice
    else andThen (lazyEnable P s) (constructChannel P n freq pwm)
  | none => lazyEnable P s

/-- `SETDIR` under the parameters P (42_motor_channel.md R91): an invalid channel is a silent no-op (R93), an unconstructed one is
refused (D19). -/
def direction (P : Params) (ch : Byte) (dir : Direction) (s : State) : Result :=
  match channelOf ch with
  | some n =>
    if s.cons.get n then transmission P (maskedUpdate (channelMask P n) (directionValue P n dir) s)
    else .refused .channelNotConstructed
  | none => .next s

/-- `SETSPEED` under the parameters P (42_motor_channel.md R92): an invalid channel is a silent no-op (R93), an unconstructed one is
refused (D19). -/
def speed (P : Params) (ch duty : Byte) (s : State) : Result :=
  match channelOf ch with
  | some n => if s.cons.get n then writeDuty P n duty s else .refused .channelNotConstructed
  | none => .next s

/-- `CONSTRUCT ch, freq, pwm` (42_motor_channel.md R90). -/
def execConstruct (ch freq : Byte) (pwm : Bool) (s : State) : Result := construction Config.params ch freq pwm s

/-- `SETDIR ch, dir` (42_motor_channel.md R91). -/
def execSetDir (ch : Byte) (dir : Direction) (s : State) : Result := direction Config.params ch dir s

/-- `SETSPEED ch, duty` (42_motor_channel.md R92). -/
def execSetSpeed (ch duty : Byte) (s : State) : Result := speed Config.params ch duty s

end Sys2Proof.Machine
end

