-- ==== Sys2Proof/Machine/Dispatch.lean ====
section
/-!
DEFINITION. The meaning of every command: one arm for each constructor of Instr (30_encoding.md R46).
-/

namespace Sys2Proof.Machine

def exec (i : Instr) (s : State) : Host.Outcome State Fault Refusal :=
  match i with
  | .enable => Sys2Proof.Machine.execEnable s
  | .updateBits mask value => Sys2Proof.Machine.execUpdateBits mask value s
  | .transmit => Sys2Proof.Machine.execTransmit s
  | .hold => Sys2Proof.Machine.execHold s
  | .release => Sys2Proof.Machine.execRelease s
  | .getState => Sys2Proof.Machine.execGetState s
  | .setState value => Sys2Proof.Machine.execSetState value s
  | .pwmInit ch freq pwm => Sys2Proof.Machine.execPwmInit ch freq pwm s
  | .pwmSet ch duty => Sys2Proof.Machine.execPwmSet ch duty s
  | .construct ch freq pwm => Sys2Proof.Machine.execConstruct ch freq pwm s
  | .setDir ch dir => Sys2Proof.Machine.execSetDir ch dir s
  | .setSpeed ch duty => Sys2Proof.Machine.execSetSpeed ch duty s

end Sys2Proof.Machine
end

