-- ==== Sys2Proof/Machine/Step.lean ====
section
/-!
DEFINITION. One step: the command port takes the next word and its operation runs to completion (30_encoding.md R45;
20_memory.md R38).
-/

namespace Sys2Proof.Machine

/-- One step of the machine. With no word presented the block is quiescent and the step changes nothing (70_reset_and_hazards.md
R135); an illegal word is refused before anything else (30_encoding.md R53). -/
def step (s : State) : Host.Outcome State Fault Refusal :=
  match issue s with
  | none => .next s
  | some (w, issued) =>
    match decode w with
    | .legal i => exec i issued
    | .illegal _ => .refused .illegalCommand

/-- The state with the instruction of an opcode-table word presented next on the command port (log 5). -/
def State.withFetchWord (s : State) (nbits w : Nat) : State := present (tableWord nbits w) s

end Sys2Proof.Machine
end

