-- ==== Sys2Proof/Laws/Decode.lean ====
section
/-!
SUPPORT. The fields of a word and the word of four fields are each other's inverse, and masking a word masks its fields
(30_encoding.md R47, R59).
-/

namespace Sys2Proof

/-- Bit i of the word of four fields. -/
theorem toWord_getLsbD (f : Fields) (i : Nat) :
    f.toWord.getLsbD i =
      if i < 8 then f.c.getLsbD i
      else if i < 16 then f.b.getLsbD (i - 8)
      else if i < 24 then f.a.getLsbD (i - 16)
      else f.op.getLsbD (i - 24) := by
  simp only [Fields.toWord, BitVec.getLsbD_or, BitVec.getLsbD_shiftLeft, BitVec.getLsbD_setWidth]
  have hz : ∀ (x : Byte) (k : Nat), 8 ≤ k → x.getLsbD k = false := fun x k h => BitVec.getLsbD_of_ge x k h
  rcases Nat.lt_or_ge i 8 with h | h
  · simp [h, show i < 16 by omega, show i < 24 by omega, show i < 32 by omega]
  rcases Nat.lt_or_ge i 16 with h' | h'
  · simp [h', show ¬ i < 8 by omega, show i < 24 by omega, show i < 32 by omega, hz f.c i h, show i - 8 < 32 by omega]
  rcases Nat.lt_or_ge i 24 with h'' | h''
  · simp [h'', show ¬ i < 8 by omega, show ¬ i < 16 by omega, show i < 32 by omega, hz f.c i h, hz f.b (i - 8) (by omega),
      show i - 16 < 32 by omega]
  rcases Nat.lt_or_ge i 32 with h3 | h3
  · simp [show ¬ i < 8 by omega, show ¬ i < 16 by omega, show ¬ i < 24 by omega, h3, hz f.c i h, hz f.b (i - 8) (by omega),
      hz f.a (i - 16) (by omega), show i - 24 < 32 by omega]
  · simp [show ¬ i < 8 by omega, show ¬ i < 16 by omega, show ¬ i < 24 by omega, show ¬ i < 32 by omega, hz f.op (i - 24) (by omega)]

theorem ofWord_toWord (f : Fields) : Fields.ofWord f.toWord = f := by
  obtain ⟨op, a, b, c⟩ := f
  simp only [Fields.ofWord, Fields.mk.injEq]
  refine ⟨?_, ?_, ?_, ?_⟩ <;> apply BitVec.eq_of_getLsbD_eq <;> intro i hi
  · simp [toWord_getLsbD, hi, show ¬ 24 + i < 8 by omega, show ¬ 24 + i < 16 by omega]
  · simp [toWord_getLsbD, hi, show ¬ 16 + i < 8 by omega, show 16 + i < 24 by omega]
  · simp [toWord_getLsbD, hi, show 8 + i < 16 by omega]
  · simp [toWord_getLsbD, hi]

theorem toWord_ofWord (w : Word) : (Fields.ofWord w).toWord = w := by
  apply BitVec.eq_of_getLsbD_eq
  intro i hi
  rw [toWord_getLsbD]
  simp only [Fields.ofWord, BitVec.getLsbD_extractLsb']
  split
  · next h => simp [h]
  split
  · next h h' => simp [show i - 8 < 8 by omega, show 8 + (i - 8) = i by omega]
  split
  · next h h' h'' => simp [show i - 16 < 8 by omega, show 16 + (i - 16) = i by omega]
  · simp [show i - 24 < 8 by omega, show 24 + (i - 24) = i by omega]

theorem toWord_and (f g : Fields) :
    f.toWord &&& g.toWord = Fields.toWord ⟨f.op &&& g.op, f.a &&& g.a, f.b &&& g.b, f.c &&& g.c⟩ := by
  apply BitVec.eq_of_getLsbD_eq
  intro i hi
  simp only [BitVec.getLsbD_and, toWord_getLsbD]
  split
  · rfl
  split
  · rfl
  split <;> rfl

theorem toWord_inj {f g : Fields} : f.toWord = g.toWord ↔ f = g :=
  ⟨fun h => by rw [← ofWord_toWord f, h, ofWord_toWord], fun h => h ▸ rfl⟩

/-- Each code names its direction (30_encoding.md R50). -/
theorem ofCode_code (dir : Direction) : Direction.ofCode dir.code = some dir := by
  cases dir <;> rfl

/-- A code names a direction exactly when it is that direction's (30_encoding.md R50). -/
theorem ofCode_eq_some {r : BitVec 2} {dir : Direction} (h : Direction.ofCode r = some dir) : dir.code = r := by
  revert h; revert r dir
  decide

end Sys2Proof
end

