-- ==== Sys2Proof/Laws/PerInstr.lean ====
section
/-!
SUPPORT. The family LegalEncoding: the word an instruction is encoded as is legal by the opcode map's own match and mask
(30_encoding.md R52, R53). One lemma a constructor.
-/

namespace Sys2Proof.Laws.LegalEncoding

/-- The instruction's word matches a row of the opcode map and holds no reserved direction. -/
def Statement (i : Instr) : Prop := wellFormedWord (encode i) = true

/-- A word is legal if one row's masked fields are that row's and it is no SETDIR word. -/
theorem legal_of_row {f m v : Fields} (r : OpcodeRow) (hr : r ∈ opcodeRows) (hm : r.maskBits = m.toWord)
    (hv : r.matchBits = v.toWord) (h : Fields.mk (f.op &&& m.op) (f.a &&& m.a) (f.b &&& m.b) (f.c &&& m.c) = v)
    (hd : directionAllowed f.toWord = true) : wellFormedWord f.toWord = true := by
  have hs : r.spells f.toWord = true := by simp [OpcodeRow.spells, hm, hv, toWord_and, h]
  simp only [wellFormedWord, Bool.and_eq_true, List.any_eq_true]
  exact ⟨⟨r, hr, hs⟩, hd⟩

/-- Only a SETDIR word can hold a reserved direction. -/
theorem directionAllowed_of_op {f : Fields} (h : f.op ≠ 0x0B#8) : directionAllowed f.toWord = true := by
  have hm : (0xFF000000#32 : Word) = Fields.toWord ⟨0xFF#8, 0#8, 0#8, 0#8⟩ := by decide
  have hv : (0x0B000000#32 : Word) = Fields.toWord ⟨0x0B#8, 0#8, 0#8, 0#8⟩ := by decide
  have hne : ¬ f.op &&& 0xFF#8 = 0x0B#8 := by
    rw [show (0xFF#8 : Byte) = BitVec.allOnes 8 by decide, BitVec.and_allOnes]; exact h
  simp [directionAllowed, hm, hv, toWord_and, toWord_inj, hne]

theorem enable : Statement .enable := by unfold Statement; decide

theorem updateBits (mask value : Byte) : Statement (.updateBits mask value) :=
  legal_of_row (m := ⟨0xFF#8, 0#8, 0#8, 0xFF#8⟩) (v := ⟨0x02#8, 0#8, 0#8, 0#8⟩) ⟨"UPDATEBITS", 0x02000000#32, 0xFF0000FF#32⟩
    (by decide) (by decide) (by decide) (by simp [encodeFields]) (directionAllowed_of_op (show 0x02#8 ≠ 0x0B#8 by decide))

theorem transmit : Statement .transmit := by unfold Statement; decide
theorem hold : Statement .hold := by unfold Statement; decide
theorem release : Statement .release := by unfold Statement; decide
theorem getState : Statement .getState := by unfold Statement; decide

theorem setState (value : Byte) : Statement (.setState value) :=
  legal_of_row (m := ⟨0xFF#8, 0#8, 0xFF#8, 0xFF#8⟩) (v := ⟨0x07#8, 0#8, 0#8, 0#8⟩) ⟨"SETSTATE", 0x07000000#32, 0xFF00FFFF#32⟩
    (by decide) (by decide) (by decide) (by simp [encodeFields]) (directionAllowed_of_op (show 0x07#8 ≠ 0x0B#8 by decide))

theorem pwmInit (ch freq : Byte) (pwm : Bool) : Statement (.pwmInit ch freq pwm) :=
  legal_of_row (m := ⟨0xFF#8, 0#8, 0#8, 0xFE#8⟩) (v := ⟨0x08#8, 0#8, 0#8, 0#8⟩) ⟨"PWMINIT", 0x08000000#32, 0xFF0000FE#32⟩
    (by decide) (by decide) (by decide) (by cases pwm <;> simp [encodeFields, pwmField]) (directionAllowed_of_op (show 0x08#8 ≠ 0x0B#8 by decide))

theorem pwmSet (ch duty : Byte) : Statement (.pwmSet ch duty) :=
  legal_of_row (m := ⟨0xFF#8, 0#8, 0#8, 0xFF#8⟩) (v := ⟨0x09#8, 0#8, 0#8, 0#8⟩) ⟨"PWMSET", 0x09000000#32, 0xFF0000FF#32⟩
    (by decide) (by decide) (by decide) (by simp [encodeFields]) (directionAllowed_of_op (show 0x09#8 ≠ 0x0B#8 by decide))

theorem construct (ch freq : Byte) (pwm : Bool) : Statement (.construct ch freq pwm) :=
  legal_of_row (m := ⟨0xFF#8, 0#8, 0#8, 0xFE#8⟩) (v := ⟨0x0A#8, 0#8, 0#8, 0#8⟩) ⟨"CONSTRUCT", 0x0A000000#32, 0xFF0000FE#32⟩
    (by decide) (by decide) (by decide) (by cases pwm <;> simp [encodeFields, pwmField]) (directionAllowed_of_op (show 0x0A#8 ≠ 0x0B#8 by decide))

theorem setDir (ch : Byte) (dir : Direction) : Statement (.setDir ch dir) := by
  have hallow : directionAllowed (encode (.setDir ch dir)) = true := by
    have hm : (0x00000300#32 : Word) = Fields.toWord ⟨0#8, 0#8, 0x03#8, 0#8⟩ := by decide
    have hb : ¬ dirField dir &&& 0x03#8 = 0x03#8 := by cases dir <;> decide
    simp [directionAllowed, encode, hm, toWord_and, toWord_inj, encodeFields, hb]
  exact legal_of_row (m := ⟨0xFF#8, 0#8, 0xFC#8, 0xFF#8⟩) (v := ⟨0x0B#8, 0#8, 0#8, 0#8⟩) ⟨"SETDIR", 0x0B000000#32, 0xFF00FCFF#32⟩
    (by decide) (by decide) (by decide) (by cases dir <;> simp [encodeFields, dirField, Direction.code]) hallow

theorem setSpeed (ch duty : Byte) : Statement (.setSpeed ch duty) :=
  legal_of_row (m := ⟨0xFF#8, 0#8, 0#8, 0xFF#8⟩) (v := ⟨0x0C#8, 0#8, 0#8, 0#8⟩) ⟨"SETSPEED", 0x0C000000#32, 0xFF0000FF#32⟩
    (by decide) (by decide) (by decide) (by simp [encodeFields]) (directionAllowed_of_op (show 0x0C#8 ≠ 0x0B#8 by decide))

end Sys2Proof.Laws.LegalEncoding
end

