-- ==== Sys2Proof/Safety.lean ====
section
/-!
DEFINITION. The words claims are stated in: what a burst appends and leaves, what an event history shows, and the predicates on
states that every step keeps.
-/

namespace Sys2Proof.Machine

/-! ## Outcomes -/

/-- The next state of a result, if it has one. -/
def nextOf : Result → Option State
  | .next s => some s
  | .fault _ => none
  | .refused _ => none

/-- The refusal of a result, if it is one. -/
def refusalOf : Result → Option Refusal
  | .next _ => none
  | .fault _ => none
  | .refused why => some why

/-- The result with its next state changed. -/
def mapNext (f : State → State) : Result → Result
  | .next s => .next (f s)
  | .fault why => .fault why
  | .refused why => .refused why

/-- Commands run in order (70_reset_and_hazards.md R135). -/
def runInstrs : List Instr → State → Result
  | [], s => .next s
  | i :: rest, s => andThen (exec i s) (runInstrs rest)

/-! ## A burst as events and as one update -/

/-- `W(CLK,0)`, `W(DATA,b)`, `W(CLK,1)`. -/
def bitEvents (b : Bool) : List Event := [.write .clk false, .write .data b, .write .clk true]

/-- `TX(b7 ... b0)`, the 26 events of one transmission of v (00_scope.md, trace notation). -/
def txEvents (v : Byte) : List Event :=
  [.write .latch false] ++ bitEvents (v.getLsbD 7) ++ bitEvents (v.getLsbD 6) ++ bitEvents (v.getLsbD 5)
    ++ bitEvents (v.getLsbD 4) ++ bitEvents (v.getLsbD 3) ++ bitEvents (v.getLsbD 2) ++ bitEvents (v.getLsbD 1)
    ++ bitEvents (v.getLsbD 0) ++ [.write .latch true]

/-- The state a burst of LatchState leaves (40_latch_driver.md R62; 60_exceptions.md R111): the three serial lines at their last
levels, the chip loaded, the 26 events recorded, all else as before. -/
def afterBurst (s : State) : State :=
  { s with
    pinLvl := { s.pinLvl with data := s.ls.getLsbD 0, clk := true, latch := true }
    pinWritten := { s.pinWritten with data := true, clk := true, latch := true }
    sr := s.ls
    q := s.ls
    trace := s.trace ++ txEvents s.ls }

/-- The state `TRANSMIT` leaves where it is not refused: unchanged while held, else after one burst. -/
def afterTransmission (s : State) : State := if s.hold then s else afterBurst s

/-- The three serial lines are outputs, so that a burst can be sent. -/
abbrev serialReady (s : State) : Prop :=
  s.pinDir.data = .output ∧ s.pinDir.clk = .output ∧ s.pinDir.latch = .output

/-- The state `ENABLE` leaves where `EN = 0` (40_latch_driver.md R60). -/
def afterEnable (P : Params) (s : State) : State :=
  let configured : State :=
    { s with
      ls := 0#8
      pinDir := { s.pinDir with data := .output, clk := .output, latch := .output, oe := .output }
      trace := s.trace ++ [.cfg .data, .cfg .clk, .cfg .latch, .cfg .oe] }
  let sent := afterTransmission configured
  { sent with
    pinLvl := { sent.pinLvl with oe := P.oeActive }
    pinWritten := { sent.pinWritten with oe := true }
    qen := true
    en := true
    trace := sent.trace ++ [.write .oe P.oeActive] }

/-! ## What an event history shows -/

/-- The levels sampled at the rising clock edges of a history that starts at the given clock and data levels
(40_latch_driver.md R68). -/
def risingSamples (clk data : Bool) : List Event → List Bool
  | [] => []
  | .write .clk true :: rest => if clk then risingSamples true data rest else data :: risingSamples true data rest
  | .write .clk false :: rest => risingSamples false data rest
  | .write .data b :: rest => risingSamples clk b rest
  | _ :: rest => risingSamples clk data rest

/-- The levels written to the data line, in order. -/
def dataWrites : List Event → List Bool
  | [] => []
  | .write .data b :: rest => b :: dataWrites rest
  | _ :: rest => dataWrites rest

/-- A write of one of the three serial lines. -/
def isSerialWrite : Event → Bool
  | .write .data _ => true
  | .write .clk _ => true
  | .write .latch _ => true
  | _ => false

/-- A write of the output-enable line. -/
def isOutputEnableWrite : Event → Bool
  | .write .oe _ => true
  | _ => false

/-- A programming of timer t's base configuration. -/
def isBaseOf (t : Timer) : Event → Bool
  | .timerBase k _ => k == t
  | _ => false

/-- `txcount`: the number of `W(LATCH,1)` events (00_scope.md, trace notation). -/
def burstCount (es : List Event) : Nat := es.countP (· == .write .latch true)

/-- Every `W(CLK,1)` follows at once a `W(DATA,b)` that follows at once a `W(CLK,0)` (95_test_vectors.md 2.11, property 4), the two
events before the history being given. -/
def clockDisciplined (before last : Option Event) : List Event → Bool
  | [] => true
  | e :: rest =>
    (e != .write .clk true ||
      (before == some (.write .clk false) && (last == some (.write .data false) || last == some (.write .data true))))
      && clockDisciplined last (some e) rest

/-! ## Predicates on states -/

/-- A channel holds both terminals set (70_reset_and_hazards.md R132). -/
def bothTerminals (P : Params) (n : Channel) (s : State) : Bool :=
  s.ls.getLsbD (P.bitA n).val && s.ls.getLsbD (P.bitB n).val

/-- The flags, the pins and the timers agree: what every completed command leaves, and what reset has. -/
structure Coherent (P : Params) (s : State) : Prop where
  /-- An enabled block has its control lines configured and its output-enable line active. -/
  enabled : s.en = true → s.pinDir.data = .output ∧ s.pinDir.clk = .output ∧ s.pinDir.latch = .output ∧
    s.pinDir.oe = .output ∧ s.pinWritten.oe = true ∧ s.pinLvl.oe = P.oeActive
  /-- The outputs are driven iff the output-enable line is active, once it has been written (60_exceptions.md R108). -/
  driven : s.pinWritten.oe = true → s.qen = (s.pinLvl.oe == P.oeActive)
  /-- Only an output pin has been written. -/
  writtenOutput : ∀ p, s.pinWritten.get p = true → s.pinDir.get p = .output
  /-- A constructed channel has an enabled block and a configured PWM pin. -/
  constructed : ∀ n, s.cons.get n = true → s.en = true ∧ s.pmode.get n ≠ .unconfigured
  /-- A fallback channel's PWM pin is an output. -/
  fallbackPin : ∀ n, s.pmode.get n = .digital → s.pinDir.get (.pwm n) = .output
  /-- A hardware PWM channel's timer is initialised. -/
  pwmTimer : ∀ n, s.pmode.get n = .pwm → timerInitialised (channelTimer P n) s = true
  /-- A timer's flag is set iff its base configuration was programmed. -/
  programmed : ∀ t, timerInitialised t s = true ↔ (timerLookup t s.tbase).isSome = true

/-- The timer lists are in their one form: rising timers, and no flag listed that is 0 (log 8). -/
abbrev timersCanonical (s : State) : Prop :=
  (s.tinit.map Prod.fst).Pairwise (· < ·) ∧ (∀ e ∈ s.tinit, e.2 = true) ∧ (s.tbase.map Prod.fst).Pairwise (· < ·)

/-- A shared timer's base configuration is in the history once if its flag is set, and never otherwise (41_timer_backend.md R82). -/
def sharedProgrammedOnce (P : Params) (s : State) : Prop :=
  ∀ t, timerShared P t = true → s.trace.countP (isBaseOf t) = if timerInitialised t s then 1 else 0

/-- The output-enable line was written once if the block is enabled, and never otherwise (95_test_vectors.md 2.11, property 8). -/
def outputEnableWrittenOnce (s : State) : Prop := s.trace.countP isOutputEnableWrite = if s.en then 1 else 0

/-- The mirror invariant of an enabled block that is not held (10_state.md R12): the chip outputs LatchState, and the last eight data
writes, read last to first, are LatchState from bit 0 to bit 7. -/
def mirrored (s : State) : Prop :=
  s.en = true → s.hold = false →
    s.q = s.ls ∧ (dataWrites s.trace).reverse.take 8 =
      [s.ls.getLsbD 0, s.ls.getLsbD 1, s.ls.getLsbD 2, s.ls.getLsbD 3, s.ls.getLsbD 4, s.ls.getLsbD 5, s.ls.getLsbD 6,
        s.ls.getLsbD 7]

end Sys2Proof.Machine
end

