-- ==== Sys2Proof/Certificates/Slice0/Obligations.lean ====
section
/-!
DEFINITION. The statements for the provers. `Config.params` is opaque, so each holds whatever the open parameters of 00_scope.md R6
are; the `⊥` values at reset are opaque too (logs 1 and 2).
-/

open Sys2Proof Sys2Proof.Machine

/-! ## Reset, decoding, stepping -/

/-- The reset values the spec gives (10_state.md R26; 70_reset_and_hazards.md R120): the flags 0, every channel unconfigured and
unconstructed, every pin unconfigured and unwritten, the history empty. Some of them are the spec's own decisions (D10, D12, D13,
D18, D36). -/
def Obligations.ResetValues : Prop :=
  State.reset.hold = false ∧ State.reset.en = false ∧ (∀ t, timerInitialised t State.reset = false) ∧
  (∀ n, State.reset.pmode.get n = .unconfigured ∧ State.reset.cons.get n = false) ∧
  (∀ p, State.reset.pinDir.get p = .unconfigured ∧ State.reset.pinWritten.get p = false) ∧ State.reset.trace = []

/-- Words written out from 30_encoding.md R52 decode as that rule says, one at least of each family, and illegal words are refused. -/
def Obligations.SpecWordsDecode : Prop :=
  decode 0x01000000#32 = .legal .enable ∧ decode 0x020F0200#32 = .legal (.updateBits 0x0F#8 0x02#8) ∧
  decode 0x07A50000#32 = .legal (.setState 0xA5#8) ∧ decode 0x08010401#32 = .legal (.pwmInit 1#8 4#8 true) ∧
  decode 0x09011100#32 = .legal (.pwmSet 1#8 17#8) ∧ decode 0x0A040000#32 = .legal (.construct 4#8 0#8 false) ∧
  decode 0x0B020200#32 = .legal (.setDir 2#8 .backward) ∧ decode 0x0C01C800#32 = .legal (.setSpeed 1#8 200#8) ∧
  decode 0x00000000#32 = .illegal .unassignedOpcode ∧ decode 0x04000001#32 = .illegal .unusedFieldNonzero ∧
  decode 0x0B010300#32 = .illegal .reservedDirection

/-- A step runs the decoded instruction: with no word presented nothing changes; a legal word is consumed, the response port is
cleared, and its operation runs; an illegal word is refused. That words to come stand in `commands` and that a step without one
changes nothing is the model's choice (log 5); that issuing clears the port is log 6. -/
def Obligations.StepRunsDecodedCommand : Prop :=
  ∀ s : State, (s.commands = [] → step s = .next s) ∧
    ∀ w rest, s.commands = w :: rest →
      (∀ i, decode w = .legal i → step s = exec i { s with commands := rest, response := none }) ∧
      (∀ why, decode w = .illegal why → step s = .refused .illegalCommand)

/-- Every operation's word decodes to it, with every operand at every value (30_encoding.md R59). -/
def Obligations.DecodeInvertsEncode : Prop := ∀ i : Instr, decode (encode i) = .legal i

/-- A word that decodes to an operation is that operation's word: no bit is dropped (30_encoding.md R59). -/
def Obligations.EncodeInvertsDecode : Prop := ∀ (w : Word) (i : Instr), decode w = .legal i → encode i = w

/-- The decoder accepts exactly the words that match a row of the opcode map and hold no reserved direction (30_encoding.md R52,
R53). -/
def Obligations.DecodeAcceptsOpcodeMap : Prop := ∀ w : Word, (∃ i, decode w = .legal i) ↔ wellFormedWord w = true

/-- No word matches two rows of the opcode map (30_encoding.md R52, R53). -/
def Obligations.OpcodeRowsDisjoint : Prop :=
  ∀ (w : Word) (r r' : OpcodeRow), r ∈ opcodeRows → r' ∈ opcodeRows → r.spells w = true → r'.spells w = true → r = r'

/-- A platform and a family make a model instance exactly when the family is supported (41_timer_backend.md R86). -/
def Obligations.OnlySupportedFamilyConfigured : Prop :=
  ∀ (p : Platform) (f : Family),
    (f ∈ p.supported → ∃ P, configure p f = .next P ∧ P.family = f ∧ P.toPlatform = p) ∧
    (f ∉ p.supported → configure p f = .refused .unsupportedFamily)

/-! ## LatchDriver -/

/-- `ENABLE` of a block neither enabled nor held: the control lines configured, LatchState zero, one burst of zeros, output-enable
active, all else unchanged (40_latch_driver.md R60). The order of the four configurations is the spec's own choice (D15). -/
def Obligations.EnableConfiguresAndClears : Prop :=
  ∀ s : State, s.en = false → s.hold = false →
    exec .enable s = .next { s with
      ls := 0#8
      en := true
      pinDir := { s.pinDir with data := .output, clk := .output, latch := .output, oe := .output }
      pinLvl := { s.pinLvl with data := false, clk := true, latch := true, oe := Config.params.oeActive }
      pinWritten := { s.pinWritten with data := true, clk := true, latch := true, oe := true }
      sr := 0#8
      q := 0#8
      qen := true
      trace := s.trace ++ [.cfg .data, .cfg .clk, .cfg .latch, .cfg .oe] ++ txEvents 0#8 ++ [.write .oe Config.params.oeActive] }

/-- `ENABLE` inside a hold window: as `ENABLE`, with no burst (40_latch_driver.md R60; the spec's resolution of C1, D14). -/
def Obligations.EnableHeldSendsNoBurst : Prop :=
  ∀ s : State, s.en = false → s.hold = true →
    exec .enable s = .next { s with
      ls := 0#8
      en := true
      pinDir := { s.pinDir with data := .output, clk := .output, latch := .output, oe := .output }
      pinLvl := { s.pinLvl with oe := Config.params.oeActive }
      pinWritten := { s.pinWritten with oe := true }
      qen := true
      trace := s.trace ++ [.cfg .data, .cfg .clk, .cfg .latch, .cfg .oe, .write .oe Config.params.oeActive] }

/-- `UPDATEBITS`: LatchState masked and ORed, bit by bit as the rule's corner case (a) says, and nothing else changes: no pin, no
flag, no event; its word is 0x02, mask, value, 0 (40_latch_driver.md R61). -/
def Obligations.UpdateBitsMasksLatchState : Prop :=
  ∀ (mask value : Byte) (s : State), ∃ v : Byte,
    exec (.updateBits mask value) s = .next { s with ls := v } ∧ v = (s.ls &&& ~~~mask) ||| value ∧
    (∀ k < 8, v.getLsbD k = if mask.getLsbD k then value.getLsbD k else (s.ls.getLsbD k || value.getLsbD k)) ∧
    encode (.updateBits mask value) = 0x02000000#32 ||| mask.setWidth 32 <<< 16 ||| value.setWidth 32 <<< 8

/-- `TRANSMIT`: nothing at all while held; else, the serial lines being outputs, one burst of 26 events that leaves clock and latch
high and data at bit 0, loads the chip with LatchState whatever it held, and changes nothing else (40_latch_driver.md R62;
60_exceptions.md R111). -/
def Obligations.TransmitSendsOneBurst : Prop :=
  ∀ s : State, (s.hold = true → exec .transmit s = .next s) ∧
    (s.hold = false → serialReady s → exec .transmit s = .next { s with
      pinLvl := { s.pinLvl with data := s.ls.getLsbD 0, clk := true, latch := true }
      pinWritten := { s.pinWritten with data := true, clk := true, latch := true }
      sr := s.ls
      q := s.ls
      trace := s.trace ++ txEvents s.ls })

/-- A transmission that is not held and finds a serial line unconfigured is refused, for `TRANSMIT`, `SETSTATE` and `RELEASE` alike
(40_latch_driver.md R62, R64, R66; the refusal is the spec's own decision D13). -/
def Obligations.UnconfiguredLinesRefused : Prop :=
  ∀ s : State, ¬ serialReady s →
    (s.hold = false → ∃ p, exec .transmit s = .refused (.pinNotConfigured p) ∧ s.pinDir.get p = .unconfigured) ∧
    (∀ v, s.hold = false → ∃ p, exec (.setState v) s = .refused (.pinNotConfigured p) ∧ s.pinDir.get p = .unconfigured) ∧
    (∃ p, exec .release s = .refused (.pinNotConfigured p) ∧ s.pinDir.get p = .unconfigured)

/-- One transmission carries LatchState most significant bit first: the data level at the i-th rising clock edge is `LS[7 - i]`, with
exactly eight clock pulses between latch low and latch high, whatever the levels before (20_memory.md R30). -/
def Obligations.BurstCarriesMostSignificantFirst : Prop :=
  ∀ s : State, s.hold = false → serialReady s →
    ∃ t es, exec .transmit s = .next t ∧ t.trace = s.trace ++ es ∧
      (∀ clk data, risingSamples clk data es = [s.ls.getLsbD 7, s.ls.getLsbD 6, s.ls.getLsbD 5, s.ls.getLsbD 4, s.ls.getLsbD 3,
        s.ls.getLsbD 2, s.ls.getLsbD 1, s.ls.getLsbD 0]) ∧
      es.countP (· == .write .clk true) = 8 ∧ es.head? = some (.write .latch false) ∧ es.getLast? = some (.write .latch true) ∧
      burstCount es = 1

/-- A burst taken pin write by pin write, in the 26 positions of the small-step form, is the transmission (40_latch_driver.md R70):
from every state, where it completes and where it is refused. -/
def Obligations.SmallStepsMakeTheBurst : Prop :=
  ∀ s : State, s.hold = false → exec .transmit s = burstSteps Config.params (List.range 26) s

/-- `HOLD` sets the flag and does nothing else, set or not before, enabled or not (40_latch_driver.md R63). -/
def Obligations.HoldSetsFlagOnly : Prop :=
  ∀ s : State, exec .hold s = .next { s with hold := true }

/-- `RELEASE` clears the flag and always sends exactly one burst, held or not before (40_latch_driver.md R64). -/
def Obligations.ReleaseAlwaysFlushes : Prop :=
  ∀ s : State, serialReady s → exec .release s = .next { s with
    hold := false
    pinLvl := { s.pinLvl with data := s.ls.getLsbD 0, clk := true, latch := true }
    pinWritten := { s.pinWritten with data := true, clk := true, latch := true }
    sr := s.ls
    q := s.ls
    trace := s.trace ++ txEvents s.ls }

/-- `GETSTATE` puts LatchState on the response port and changes nothing else (40_latch_driver.md R65; 30_encoding.md R58). The record
`responses` is the model's (log 6). -/
def Obligations.GetStateRespondsWithLatchState : Prop :=
  ∀ s : State, exec .getState s = .next { s with response := some s.ls, responses := s.responses ++ [s.ls] }

/-- `SETSTATE` writes the whole of LatchState; held it sends nothing; else, the lines being outputs, it sends one burst of the new
value (40_latch_driver.md R66). -/
def Obligations.SetStateWritesAndTransmits : Prop :=
  ∀ (v : Byte) (s : State), (s.hold = true → exec (.setState v) s = .next { s with ls := v }) ∧
    (s.hold = false → serialReady s → exec (.setState v) s = .next { s with
      ls := v
      pinLvl := { s.pinLvl with data := v.getLsbD 0, clk := true, latch := true }
      pinWritten := { s.pinWritten with data := true, clk := true, latch := true }
      sr := v
      q := v
      trace := s.trace ++ txEvents v })

/-! ## TimerBackend -/

/-- `PWMINIT` with PWM enabled, where the timer must be programmed (not shared, or not initialised yet): the base programmed from the
code, the timer's flag set, the channel in PWM mode at duty 0, three events, all else unchanged (41_timer_backend.md R81). The
order of the three is the spec's own choice (D23). -/
def Obligations.PwmInitProgramsTimer : Prop :=
  ∀ (n : Channel) (freq : Byte) (s : State),
    (timerShared Config.params (channelTimer Config.params n) = true →
      timerInitialised (channelTimer Config.params n) s = false) →
    ∃ t : State, exec (.pwmInit (channelNumber n) freq true) s = .next t ∧
      (∀ k, timerInitialised k t = (decide (k = channelTimer Config.params n) || timerInitialised k s)) ∧
      (∀ k, timerBase k t = if k = channelTimer Config.params n then freq else timerBase k s) ∧
      t = { s with
        tinit := t.tinit
        tbase := t.tbase
        pmode := s.pmode.set n .pwm
        cmp := s.cmp.set n 0#8
        trace := s.trace ++ [.timerBase (channelTimer Config.params n) freq, .chanPwm n, .cmp n 0#8] }

/-- The first requester of a shared timer wins. The first `PWMINIT` with PWM enabled on it sets its flag and programs its base from
that request's code; once the flag is set, a `PWMINIT` of any channel m on that timer, with whatever code, leaves the base as it is,
programs none and reports nothing: it only puts channel m into PWM mode at duty 0 (70_reset_and_hazards.md R128). So it is under any
parameters P, those the machine runs at among them. -/
def Obligations.SharedTimerFirstRequesterWins : Prop :=
  ∀ (P : Params) (n m : Channel) (freq freq' : Byte) (s : State),
    timerShared P (channelTimer P n) = true → channelTimer P m = channelTimer P n →
    (timerInitialised (channelTimer P n) s = false →
      timerInitialised (channelTimer P n) (initialisePwm P n freq true s) = true ∧
      timerBase (channelTimer P n) (initialisePwm P n freq true s) = freq) ∧
    (timerInitialised (channelTimer P n) s = true →
      initialisePwm P m freq' true s = { s with
        pmode := s.pmode.set m .pwm
        cmp := s.cmp.set m 0#8
        trace := s.trace ++ [.chanPwm m, .cmp m 0#8] }) ∧
    (P = Config.params →
      exec (.pwmInit (channelNumber m) freq' true) s = .next (initialisePwm P m freq' true s))

/-- `PWMINIT` with PWM disabled: the channel's pin an output, its level untouched, the channel in fallback mode, no timer touched
(41_timer_backend.md R81; that the pin is only configured is the spec's own decision D22). -/
def Obligations.PwmInitFallbackConfiguresPin : Prop :=
  ∀ (n : Channel) (freq : Byte) (s : State),
    exec (.pwmInit (channelNumber n) freq false) s = .next { s with
      pinDir := s.pinDir.set (.pwm n) .output
      pmode := s.pmode.set n .digital
      trace := s.trace ++ [.cfg (.pwm n)] }

/-- `PWMSET` in PWM mode writes the duty unchanged to the compare register; in fallback mode it drives the pin high iff the duty is
over 127; nothing else changes (41_timer_backend.md R83). -/
def Obligations.PwmSetWritesDuty : Prop :=
  ∀ (n : Channel) (duty : Byte) (s : State),
    (s.pmode.get n = .pwm → exec (.pwmSet (channelNumber n) duty) s = .next { s with
      cmp := s.cmp.set n duty
      trace := s.trace ++ [.cmp n duty] }) ∧
    (s.pmode.get n = .digital → s.pinDir.get (.pwm n) = .output →
      exec (.pwmSet (channelNumber n) duty) s = .next { s with
        pinLvl := s.pinLvl.set (.pwm n) (decide (duty.toNat > 127))
        pinWritten := s.pinWritten.set (.pwm n) true
        trace := s.trace ++ [.write (.pwm n) (decide (duty.toNat > 127))] })

/-- The fallback threshold: the level is high iff the duty is over 127, unsigned; equivalently it is bit 7 of the duty
(41_timer_backend.md R84). -/
def Obligations.FallbackThreshold : Prop :=
  ∀ duty : Byte, (dutyLevel duty = true ↔ duty.toNat > 127) ∧ dutyLevel duty = duty.getLsbD 7

/-- The duty law: 0 is never high, 255 always, and between them the fraction is linear in the compare register, hence rising
(41_timer_backend.md R85; that the waveform itself is not modelled is the spec's own decision D37). -/
def Obligations.DutyLawIsLinear : Prop :=
  dutyFraction 0#8 = 0 ∧ dutyFraction 255#8 = 1 ∧
  (∀ a b : Byte, dutyFraction a - dutyFraction b = ((a.toNat : Rat) - b.toNat) * dutyFraction 1#8) ∧
  ∀ a b : Byte, a.toNat < b.toNat → dutyFraction a < dutyFraction b

/-! ## MotorChannel -/

/-- `CONSTRUCT` of a valid channel not yet constructed: the lazy enabling if the block is not enabled, the channel's direction bits
cleared, one transmission unless held, then what `PWMINIT` does, then the channel recorded (42_motor_channel.md R90; the
transmission after the clearing is the spec's own decision D20). -/
def Obligations.ConstructBuildsChannel : Prop :=
  ∀ (n : Channel) (freq : Byte) (pwm : Bool) (s : State),
    s.cons.get n = false → (s.en = true → s.hold = false → serialReady s) →
    ∃ u : State,
      exec (.pwmInit (channelNumber n) freq pwm)
        (let e := if s.en then s else afterEnable Config.params s
         afterTransmission { e with ls := e.ls &&& ~~~(channelMask Config.params n) }) = .next u ∧
      exec (.construct (channelNumber n) freq pwm) s = .next { u with
        cons := u.cons.set n true
        freq := u.freq.set n freq
        pwmen := u.pwmen.set n pwm }

/-- The first construction, not held, PWM enabled on a timer that must be programmed: the block enabled, LatchState and the chip zero,
two bursts, sixty events in the order of the rule (42_motor_channel.md R90; orders and second burst by D15, D20, D23). -/
def Obligations.FirstConstructionEnables : Prop :=
  ∀ (n : Channel) (freq : Byte) (s : State),
    s.cons.get n = false → s.en = false → s.hold = false →
    (timerShared Config.params (channelTimer Config.params n) = true →
      timerInitialised (channelTimer Config.params n) s = false) →
    ∃ t es, exec (.construct (channelNumber n) freq true) s = .next t ∧
      t.en = true ∧ t.ls = 0#8 ∧ t.q = 0#8 ∧ t.qen = true ∧ t.cons = s.cons.set n true ∧ t.freq = s.freq.set n freq ∧
      t.pwmen = s.pwmen.set n true ∧ t.pmode = s.pmode.set n .pwm ∧ t.cmp = s.cmp.set n 0#8 ∧
      t.trace = s.trace ++ es ∧ es.length = 60 ∧ burstCount es = 2 ∧
      es = [.cfg .data, .cfg .clk, .cfg .latch, .cfg .oe] ++ txEvents 0#8 ++ [.write .oe Config.params.oeActive] ++ txEvents 0#8 ++
        [.timerBase (channelTimer Config.params n) freq, .chanPwm n, .cmp n 0#8]

/-- `CONSTRUCT` with an invalid channel number does the lazy enabling and nothing else (42_motor_channel.md R90; the spec's own
decision D17). -/
def Obligations.InvalidConstructionOnlyEnables : Prop :=
  ∀ (ch freq : Byte) (pwm : Bool) (s : State), (ch.toNat = 0 ∨ 5 ≤ ch.toNat) →
    (s.en = true → exec (.construct ch freq pwm) s = .next s) ∧
    (s.en = false → exec (.construct ch freq pwm) s = .next (afterEnable Config.params s))

/-- `SETDIR` on a constructed channel: its two terminals as the direction says, every other bit unchanged, then one transmission unless
held, and nothing else changes (42_motor_channel.md R91, R96). -/
def Obligations.SetDirSetsTerminals : Prop :=
  ∀ (n : Channel) (dir : Direction) (s : State), s.cons.get n = true → (s.hold = false → serialReady s) →
    ∃ v : Byte, exec (.setDir (channelNumber n) dir) s = .next (afterTransmission { s with ls := v }) ∧
      v.getLsbD (Config.params.bitA n).val = decide (dir = .forward) ∧
      v.getLsbD (Config.params.bitB n).val = decide (dir = .backward) ∧
      ∀ k : Fin 8, k ≠ Config.params.bitA n → k ≠ Config.params.bitB n → v.getLsbD k.val = s.ls.getLsbD k.val

/-- `SETSPEED` on a constructed channel forwards the duty as it is to the channel's compare register, or to its pin by the threshold in
fallback mode; LatchState and everything else are unchanged, held or not (42_motor_channel.md R92). -/
def Obligations.SetSpeedForwardsDuty : Prop :=
  ∀ (n : Channel) (duty : Byte) (s : State), s.cons.get n = true →
    (s.pmode.get n = .pwm → exec (.setSpeed (channelNumber n) duty) s = .next { s with
      cmp := s.cmp.set n duty
      trace := s.trace ++ [.cmp n duty] }) ∧
    (s.pmode.get n = .digital → s.pinDir.get (.pwm n) = .output →
      exec (.setSpeed (channelNumber n) duty) s = .next { s with
        pinLvl := s.pinLvl.set (.pwm n) (decide (duty.toNat > 127))
        pinWritten := s.pinWritten.set (.pwm n) true
        trace := s.trace ++ [.write (.pwm n) (decide (duty.toNat > 127))] })

/-- `SETDIR`, `SETSPEED`, `PWMINIT` and `PWMSET` with an invalid channel number complete and change nothing (42_motor_channel.md R93;
for the last two the spec's own decision D21). -/
def Obligations.InvalidChannelIsSilent : Prop :=
  ∀ (ch : Byte) (s : State), (ch.toNat = 0 ∨ 5 ≤ ch.toNat) →
    (∀ dir, exec (.setDir ch dir) s = .next s) ∧ (∀ duty, exec (.setSpeed ch duty) s = .next s) ∧
    (∀ freq pwm, exec (.pwmInit ch freq pwm) s = .next s) ∧ (∀ duty, exec (.pwmSet ch duty) s = .next s)

/-- The uses of a once-only or unprepared unit are refused: a second `ENABLE` (D16), a second `CONSTRUCT` (D18), `SETDIR` and `SETSPEED`
of an unconstructed channel and `PWMSET` of an unconfigured one (D19): the spec's own decisions (00_scope.md R9). -/
def Obligations.UnpreparedUsesRefused : Prop :=
  ∀ (n : Channel) (s : State),
    (s.en = true → exec .enable s = .refused .enableTwice) ∧
    (s.cons.get n = true → ∀ freq pwm, exec (.construct (channelNumber n) freq pwm) s = .refused .constructTwice) ∧
    (s.cons.get n = false → ∀ dir, exec (.setDir (channelNumber n) dir) s = .refused .channelNotConstructed) ∧
    (s.cons.get n = false → ∀ duty, exec (.setSpeed (channelNumber n) duty) s = .refused .channelNotConstructed) ∧
    (s.pmode.get n = .unconfigured → ∀ duty, exec (.pwmSet (channelNumber n) duty) s = .refused .channelNotConfigured)

/-- In a coherent state a command is refused only for the use the spec names: so every other command completes. A transmission is
refused only before the block is enabled (00_scope.md R9; 70_reset_and_hazards.md R121, R123). -/
def Obligations.OnlyNamedUsesRefused : Prop :=
  ∀ (i : Instr) (s : State) (why : Refusal), Coherent Config.params s → exec i s = .refused why →
    (why = .enableTwice ∧ i = .enable ∧ s.en = true) ∨
    (why = .constructTwice ∧ ∃ n freq pwm, i = .construct (channelNumber n) freq pwm ∧ s.cons.get n = true) ∨
    (why = .channelNotConstructed ∧ ∃ n, s.cons.get n = false ∧
      ((∃ dir, i = .setDir (channelNumber n) dir) ∨ (∃ duty, i = .setSpeed (channelNumber n) duty))) ∨
    (why = .channelNotConfigured ∧ ∃ n duty, i = .pwmSet (channelNumber n) duty ∧ s.pmode.get n = .unconfigured) ∨
    (∃ p, why = .pinNotConfigured p ∧ s.en = false ∧
      (i = .release ∨ (s.hold = false ∧ (i = .transmit ∨ ∃ v, i = .setState v))))

/-! ## Frames -/

/-- The LatchDriver's commands but `ENABLE` and `GETSTATE`, and `SETDIR`, change no timer, channel record or pin direction, neither the
output-enable line nor a PWM pin, not `EN`, no port (10_state.md R11, R17; 20_memory.md R35). -/
def Obligations.SerialCommandsFrame : Prop :=
  ∀ (i : Instr) (s t : State),
    (i = .transmit ∨ i = .hold ∨ i = .release ∨ (∃ m v, i = .updateBits m v) ∨ (∃ v, i = .setState v) ∨
      (∃ ch dir, i = .setDir ch dir)) →
    exec i s = .next t →
    t.en = s.en ∧ t.tinit = s.tinit ∧ t.tbase = s.tbase ∧ t.pmode = s.pmode ∧ t.cmp = s.cmp ∧ t.cons = s.cons ∧
    t.freq = s.freq ∧ t.pwmen = s.pwmen ∧ t.pinDir = s.pinDir ∧ t.pinLvl.oe = s.pinLvl.oe ∧ t.pinLvl.pwm = s.pinLvl.pwm ∧
    t.pinWritten.oe = s.pinWritten.oe ∧ t.pinWritten.pwm = s.pinWritten.pwm ∧ t.qen = s.qen ∧
    t.response = s.response ∧ t.responses = s.responses ∧ t.commands = s.commands ∧ t.draws = s.draws

/-- `PWMINIT`, `PWMSET` and `SETSPEED` on channel n change nothing but the timers, channel n's mode and compare register, channel n's PWM
pin, and the history (10_state.md R11; 41_timer_backend.md R81, R83; 42_motor_channel.md R92). -/
def Obligations.TimerCommandsFrame : Prop :=
  ∀ (n : Channel) (i : Instr) (s t : State),
    ((∃ freq pwm, i = .pwmInit (channelNumber n) freq pwm) ∨ (∃ duty, i = .pwmSet (channelNumber n) duty) ∨
      (∃ duty, i = .setSpeed (channelNumber n) duty)) →
    exec i s = .next t →
    t.ls = s.ls ∧ t.hold = s.hold ∧ t.en = s.en ∧ t.cons = s.cons ∧ t.freq = s.freq ∧ t.pwmen = s.pwmen ∧ t.sr = s.sr ∧
    t.q = s.q ∧ t.qen = s.qen ∧ t.response = s.response ∧ t.responses = s.responses ∧ t.commands = s.commands ∧
    t.draws = s.draws ∧
    (∀ m, m ≠ n → t.pmode.get m = s.pmode.get m ∧ t.cmp.get m = s.cmp.get m) ∧
    (∀ p, p ≠ .pwm n → t.pinDir.get p = s.pinDir.get p ∧ t.pinLvl.get p = s.pinLvl.get p ∧
      t.pinWritten.get p = s.pinWritten.get p) ∧
    (∀ k, k ≠ channelTimer Config.params n → timerInitialised k t = timerInitialised k s ∧ timerBase k t = timerBase k s)

/-- `CONSTRUCT` of channel n changes no other channel's record, mode, compare register or PWM pin, no other timer, neither `HOLD` nor a
port; where the block was enabled it leaves the output-enable line alone (42_motor_channel.md R90, R94). -/
def Obligations.ConstructFrame : Prop :=
  ∀ (n : Channel) (freq : Byte) (pwm : Bool) (s t : State), exec (.construct (channelNumber n) freq pwm) s = .next t →
    t.hold = s.hold ∧ t.response = s.response ∧ t.responses = s.responses ∧ t.commands = s.commands ∧ t.draws = s.draws ∧
    (∀ m, m ≠ n → t.pmode.get m = s.pmode.get m ∧ t.cmp.get m = s.cmp.get m ∧ t.cons.get m = s.cons.get m ∧
      t.freq.get m = s.freq.get m ∧ t.pwmen.get m = s.pwmen.get m ∧ t.pinDir.get (.pwm m) = s.pinDir.get (.pwm m) ∧
      t.pinLvl.get (.pwm m) = s.pinLvl.get (.pwm m) ∧ t.pinWritten.get (.pwm m) = s.pinWritten.get (.pwm m)) ∧
    (∀ k, k ≠ channelTimer Config.params n → timerInitialised k t = timerInitialised k s ∧ timerBase k t = timerBase k s) ∧
    (s.en = true → t.pinLvl.oe = s.pinLvl.oe ∧ t.qen = s.qen)

/-! ## Rules over all commands -/

/-- LatchState is written by no command but `ENABLE`, `UPDATEBITS`, `SETSTATE`, `CONSTRUCT` and `SETDIR` (10_state.md R11). -/
def Obligations.LatchStateWriters : Prop :=
  ∀ (i : Instr) (s t : State), exec i s = .next t → t.ls ≠ s.ls →
    i = .enable ∨ (∃ m v, i = .updateBits m v) ∨ (∃ v, i = .setState v) ∨ (∃ ch freq pwm, i = .construct ch freq pwm) ∨
      (∃ ch dir, i = .setDir ch dir)

/-- `HOLD` is set by `HOLD` only and cleared by `RELEASE` only (10_state.md R14). -/
def Obligations.HoldFlagWriters : Prop :=
  ∀ (i : Instr) (s t : State), exec i s = .next t →
    t.hold = if i = .hold then true else if i = .release then false else s.hold

/-- `EN`, every `TINIT[t]` and every `CONS[n]` are never cleared, by any step (10_state.md R15, R16, R17). -/
def Obligations.OnceFlagsNeverCleared : Prop :=
  ∀ s t : State, step s = .next t →
    (s.en = true → t.en = true) ∧ (∀ k, timerInitialised k s = true → timerInitialised k t = true) ∧
    (∀ n, s.cons.get n = true → t.cons.get n = true)

/-- `GETSTATE` is the only operation with a result; the others leave the response port and the record of responses as they are
(30_encoding.md R58; the record is log 6). -/
def Obligations.OnlyGetStateResponds : Prop :=
  ∀ (i : Instr) (s t : State), exec i s = .next t →
    t.response = (if i = .getState then some s.ls else s.response) ∧
    t.responses = (if i = .getState then s.responses ++ [s.ls] else s.responses)

/-- The hold flag gates bursts only: pin and timer initialisation, the setting of a duty or a speed, the masked update and the read of
LatchState do the same whatever `HOLD` is (20_memory.md R40; 70_reset_and_hazards.md R130). -/
def Obligations.HoldGatesBurstsOnly : Prop :=
  ∀ (b : Bool) (i : Instr) (s : State),
    ((∃ ch freq pwm, i = .pwmInit ch freq pwm) ∨ (∃ ch duty, i = .pwmSet ch duty) ∨ (∃ ch duty, i = .setSpeed ch duty) ∨
      (∃ m v, i = .updateBits m v) ∨ i = .getState) →
    exec i { s with hold := b } = mapNext (fun t => { t with hold := b }) (exec i s)

/-- Speed and direction are independent: no command on a PWM pin reads or writes LatchState, so what it does is the same for every
LatchState (10_state.md R11; 42_motor_channel.md R92). -/
def Obligations.SpeedIgnoresLatchState : Prop :=
  ∀ (v : Byte) (i : Instr) (s : State),
    ((∃ ch freq pwm, i = .pwmInit ch freq pwm) ∨ (∃ ch duty, i = .pwmSet ch duty) ∨ (∃ ch duty, i = .setSpeed ch duty)) →
    exec i { s with ls := v } = mapNext (fun t => { t with ls := v }) (exec i s)

/-- Isolation of channels: a direction or construction of channel n leaves both terminals of every other channel as they were, an
enabled block given (42_motor_channel.md R94). -/
def Obligations.ChannelsAreIsolated : Prop :=
  ∀ (n m : Channel) (i : Instr) (s t : State), m ≠ n → s.en = true →
    ((∃ dir, i = .setDir (channelNumber n) dir) ∨ (∃ freq pwm, i = .construct (channelNumber n) freq pwm)) →
    exec i s = .next t →
    t.ls.getLsbD (Config.params.bitA m).val = s.ls.getLsbD (Config.params.bitA m).val ∧
    t.ls.getLsbD (Config.params.bitB m).val = s.ls.getLsbD (Config.params.bitB m).val

/-- No public command but `SETSTATE` makes a channel hold both terminals set where none did (95_test_vectors.md 2.11, property 7;
42_motor_channel.md R94). -/
def Obligations.OnlySetStateSetsBothTerminals : Prop :=
  ∀ (i : Instr) (s t : State), i.isPublic = true → (∀ v, i ≠ .setState v) → exec i s = .next t →
    (∀ n, bothTerminals Config.params n s = false) → ∀ n, bothTerminals Config.params n t = false

/-- Repeating a `SETDIR` or `SETSPEED` that completed completes again and leaves the same state but for the history (42_motor_channel.md
R95). -/
def Obligations.DirectionAndSpeedIdempotent : Prop :=
  ∀ (i : Instr) (s t : State), ((∃ ch dir, i = .setDir ch dir) ∨ (∃ ch duty, i = .setSpeed ch duty)) →
    exec i s = .next t → ∃ u, exec i t = .next u ∧ { u with trace := t.trace } = t

/-- The history only grows, by at most sixty events a step (10_state.md R24; 20_memory.md R41). -/
def Obligations.HistoryGrowsBounded : Prop :=
  ∀ s t : State, step s = .next t → ∃ es, t.trace = s.trace ++ es ∧ es.length ≤ 60

/-- The output-enable line and the drive of the chip's outputs are changed by no command but `ENABLE` and the construction that enables
(20_memory.md R35; 40_latch_driver.md R60). -/
def Obligations.OutputEnableOnlyByEnabling : Prop :=
  ∀ (i : Instr) (s t : State), exec i s = .next t → (t.pinLvl.oe ≠ s.pinLvl.oe ∨ t.qen ≠ s.qen) →
    s.en = false ∧ t.en = true ∧ (i = .enable ∨ ∃ ch freq pwm, i = .construct ch freq pwm)

/-- A hold window: commands none of which is `RELEASE` send nothing on the serial lines and leave the chip as it was; the `RELEASE` after
them sends exactly one burst, of the LatchState accumulated up to it (40_latch_driver.md R69). -/
def Obligations.HoldWindowSendsOneBurst : Prop :=
  ∀ (is : List Instr) (s t : State), s.hold = true → Instr.release ∉ is → runInstrs is s = .next t →
    t.hold = true ∧ t.sr = s.sr ∧ t.q = s.q ∧
    (∃ es, t.trace = s.trace ++ es ∧ es.all (fun e => !isSerialWrite e) = true) ∧
    (serialReady t → ∃ u, exec .release t = .next u ∧ u.hold = false ∧ u.q = t.ls ∧ u.trace = t.trace ++ txEvents t.ls)

/-- The boot order and the state it yields: from a block neither enabled nor held with no channel constructed, constructing any one
or more distinct channels in any order, within a hold window or not, completes and leaves the block enabled and not held, LatchState
and the chip zero with the outputs driven, every constructed channel recorded and in its mode at duty 0 or with its level untouched,
every other channel untouched (70_reset_and_hazards.md R122; the enabling inside a hold window by D14). -/
def Obligations.BootOrderYieldsReadyBlock : Prop :=
  ∀ (held : Bool) (cs : List (Channel × Byte × Bool)) (s : State),
    cs ≠ [] → (cs.map (fun e => e.1)).Nodup → s.en = false → s.hold = false → (∀ n, s.cons.get n = false) →
    ∃ t, runInstrs ((if held then [Instr.hold] else []) ++ cs.map (fun e => .construct (channelNumber e.1) e.2.1 e.2.2) ++
        (if held then [Instr.release] else [])) s = .next t ∧
      t.en = true ∧ t.hold = false ∧ t.ls = 0#8 ∧ t.q = 0#8 ∧ t.qen = true ∧
      (∀ e ∈ cs, t.cons.get e.1 = true ∧ t.freq.get e.1 = e.2.1 ∧ t.pwmen.get e.1 = e.2.2 ∧
        (e.2.2 = true → t.pmode.get e.1 = .pwm ∧ t.cmp.get e.1 = 0#8) ∧
        (e.2.2 = false → t.pmode.get e.1 = .digital ∧ t.pinLvl.get (.pwm e.1) = s.pinLvl.get (.pwm e.1) ∧
          t.pinWritten.get (.pwm e.1) = s.pinWritten.get (.pwm e.1))) ∧
      ∀ n, n ∉ cs.map (fun e => e.1) → t.cons.get n = false ∧ t.pmode.get n = s.pmode.get n ∧ t.cmp.get n = s.cmp.get n ∧
        t.freq.get n = s.freq.get n ∧ t.pwmen.get n = s.pwmen.get n

/-! ## The latch chip -/

/-- The observer at a clock write that completes: a rising edge shifts the data level in at the bottom; a high over a high and any low
shift nothing; a high over a level never written leaves the shift stage the next free value (60_exceptions.md R109; the free value
is log 4). Nothing commits. Where the data line was never written, R109 leaves the bit shifted in unspecified, and that it is the
level's reset draw is the model's choice (log 10). The observer's conventions are the spec's own (D34, log 17). -/
def Obligations.ClockEdgeShifts : Prop :=
  ∀ (level : Bool) (s : State), s.pinDir.clk = .output → ∃ t, pinWrite Config.params .clk level s = .next t ∧ t.q = s.q ∧
    (level = false → t.sr = s.sr ∧ t.draws = s.draws) ∧
    (level = true → s.pinWritten.clk = true → s.pinLvl.clk = true → t.sr = s.sr ∧ t.draws = s.draws) ∧
    (level = true → s.pinWritten.clk = true → s.pinLvl.clk = false → t.draws = s.draws ∧
      t.sr.getLsbD 0 = s.pinLvl.data ∧ ∀ k < 7, t.sr.getLsbD (k + 1) = s.sr.getLsbD k) ∧
    (level = true → s.pinWritten.clk = false → t.sr = Config.freeSR s.draws ∧ t.draws = s.draws + 1)

/-- The observer at a latch write that completes: a rising edge commits the shift stage to the outputs; any other latch write changes
neither stage (60_exceptions.md R110). Where the latch line was never written, R110 says nothing of the write, and that its reset draw
decides whether the edge commits is the model's choice (log 10). The observer's conventions are the spec's own (D34, log 17). -/
def Obligations.LatchEdgeCommits : Prop :=
  ∀ (level : Bool) (s : State), s.pinDir.latch = .output → ∃ t, pinWrite Config.params .latch level s = .next t ∧ t.sr = s.sr ∧
    t.q = if level = true ∧ s.pinLvl.latch = false then s.sr else s.q

/-! ## Invariants -/

/-- Every predicate the invariants speak of holds at reset. -/
def Obligations.InvariantsHoldAtReset : Prop :=
  Coherent Config.params State.reset ∧ timersCanonical State.reset ∧ sharedProgrammedOnce Config.params State.reset ∧
  outputEnableWrittenOnce State.reset ∧ mirrored State.reset ∧ clockDisciplined none none State.reset.trace = true

/-- Every step keeps the flags, the pins and the timers in agreement (10_state.md R14 to R23; 60_exceptions.md R108). -/
def Obligations.StepKeepsCoherent : Prop :=
  ∀ s t : State, Coherent Config.params s → step s = .next t → Coherent Config.params t

/-- Every step keeps the timer lists in their one form (10_state.md R16, R18; the form is the model's choice, log 8). -/
def Obligations.StepKeepsTimersCanonical : Prop :=
  ∀ s t : State, timersCanonical s → step s = .next t → timersCanonical t

/-- Every step keeps it so that a shared timer's base is programmed at most once in the history, and once iff its flag is set
(41_timer_backend.md R82). -/
def Obligations.StepKeepsSharedTimerOnce : Prop :=
  ∀ s t : State, sharedProgrammedOnce Config.params s → step s = .next t → sharedProgrammedOnce Config.params t

/-- Every step keeps it so that the output-enable line is written at most once in the history, and once iff the block is enabled
(95_test_vectors.md 2.11, property 8). -/
def Obligations.StepKeepsOutputEnableOnce : Prop :=
  ∀ s t : State, outputEnableWrittenOnce s → step s = .next t → outputEnableWrittenOnce t

/-- Every step keeps the clock discipline of the history: each clock-high event follows at once a data event that follows at once a
clock-low event (95_test_vectors.md 2.11, property 4; 20_memory.md R39). -/
def Obligations.StepKeepsClockDiscipline : Prop :=
  ∀ s t : State, clockDisciplined none none s.trace = true → step s = .next t → clockDisciplined none none t.trace = true

/-- The mirror invariant: every public command that completes keeps it so that, enabled and not held, the chip outputs LatchState and
the last eight data writes are its bits (10_state.md R12). -/
def Obligations.PublicCommandsKeepMirror : Prop :=
  ∀ (i : Instr) (s t : State), i.isPublic = true → mirrored s → exec i s = .next t → mirrored t

/-! ## The timer mapping -/

/-- Of a supported family a timer is shared exactly when two different channels use it, and two supported families never have one
mapping (41_timer_backend.md R80; 00_scope.md R6). That no other timer is shared is read from R80's "says whether" (log 23). -/
def Obligations.SharedTimersAreThoseOfSeveralChannels : Prop :=
  ∀ p : Platform,
    (∀ f ∈ p.supported, ∀ t, p.shared f t = true ↔ ∃ n m, n ≠ m ∧ p.timerOf f n = t ∧ p.timerOf f m = t) ∧
    ∀ f ∈ p.supported, ∀ g ∈ p.supported, f ≠ g → ∃ n, p.timerOf f n ≠ p.timerOf g n

/-- A timer that another channel also uses is not programmed again: once it is initialised, `PWMINIT` with PWM enabled leaves the code
programmed into it and the configuration that code gives as they are, and programs no base
(41_timer_backend.md R80, R82; 00_scope.md R6). So it is under any parameters P. -/
def Obligations.CommonTimerKeepsItsBase : Prop :=
  ∀ (P : Params) (n m : Channel) (freq : Byte) (s : State),
    n ≠ m → channelTimer P n = channelTimer P m → timerInitialised (channelTimer P n) s = true →
    (∀ k, timerBase k (initialisePwm P n freq true s) = timerBase k s ∧
      timerConfiguration P k (initialisePwm P n freq true s) = timerConfiguration P k s) ∧
    ∀ k, (initialisePwm P n freq true s).trace.countP (isBaseOf k) = s.trace.countP (isBaseOf k)
end

