-- ==== Sys2Proof/Laws/State.lean ====
section
/-!
SUPPORT. What each update of the state leaves in each field: one lemma a field and an update, so that no proof unfolds one.
-/

namespace Sys2Proof.Machine

variable (s : State)

@[simp] theorem setHold_ls (b : Bool) : (setHold b s).ls = s.ls := rfl
@[simp] theorem setHold_hold (b : Bool) : (setHold b s).hold = b := rfl
@[simp] theorem setHold_en (b : Bool) : (setHold b s).en = s.en := rfl
@[simp] theorem setHold_tinit (b : Bool) : (setHold b s).tinit = s.tinit := rfl
@[simp] theorem setHold_tbase (b : Bool) : (setHold b s).tbase = s.tbase := rfl
@[simp] theorem setHold_pmode (b : Bool) : (setHold b s).pmode = s.pmode := rfl
@[simp] theorem setHold_cmp (b : Bool) : (setHold b s).cmp = s.cmp := rfl
@[simp] theorem setHold_cons (b : Bool) : (setHold b s).cons = s.cons := rfl
@[simp] theorem setHold_freq (b : Bool) : (setHold b s).freq = s.freq := rfl
@[simp] theorem setHold_pwmen (b : Bool) : (setHold b s).pwmen = s.pwmen := rfl
@[simp] theorem setHold_pinDir (b : Bool) : (setHold b s).pinDir = s.pinDir := rfl
@[simp] theorem setHold_pinLvl (b : Bool) : (setHold b s).pinLvl = s.pinLvl := rfl
@[simp] theorem setHold_pinWritten (b : Bool) : (setHold b s).pinWritten = s.pinWritten := rfl
@[simp] theorem setHold_sr (b : Bool) : (setHold b s).sr = s.sr := rfl
@[simp] theorem setHold_q (b : Bool) : (setHold b s).q = s.q := rfl
@[simp] theorem setHold_qen (b : Bool) : (setHold b s).qen = s.qen := rfl
@[simp] theorem setHold_trace (b : Bool) : (setHold b s).trace = s.trace := rfl
@[simp] theorem setHold_response (b : Bool) : (setHold b s).response = s.response := rfl
@[simp] theorem setHold_responses (b : Bool) : (setHold b s).responses = s.responses := rfl
@[simp] theorem setHold_commands (b : Bool) : (setHold b s).commands = s.commands := rfl
@[simp] theorem setHold_draws (b : Bool) : (setHold b s).draws = s.draws := rfl

@[simp] theorem setEnabled_ls : (setEnabled s).ls = s.ls := rfl
@[simp] theorem setEnabled_hold : (setEnabled s).hold = s.hold := rfl
@[simp] theorem setEnabled_en : (setEnabled s).en = true := rfl
@[simp] theorem setEnabled_tinit : (setEnabled s).tinit = s.tinit := rfl
@[simp] theorem setEnabled_tbase : (setEnabled s).tbase = s.tbase := rfl
@[simp] theorem setEnabled_pmode : (setEnabled s).pmode = s.pmode := rfl
@[simp] theorem setEnabled_cmp : (setEnabled s).cmp = s.cmp := rfl
@[simp] theorem setEnabled_cons : (setEnabled s).cons = s.cons := rfl
@[simp] theorem setEnabled_freq : (setEnabled s).freq = s.freq := rfl
@[simp] theorem setEnabled_pwmen : (setEnabled s).pwmen = s.pwmen := rfl
@[simp] theorem setEnabled_pinDir : (setEnabled s).pinDir = s.pinDir := rfl
@[simp] theorem setEnabled_pinLvl : (setEnabled s).pinLvl = s.pinLvl := rfl
@[simp] theorem setEnabled_pinWritten : (setEnabled s).pinWritten = s.pinWritten := rfl
@[simp] theorem setEnabled_sr : (setEnabled s).sr = s.sr := rfl
@[simp] theorem setEnabled_q : (setEnabled s).q = s.q := rfl
@[simp] theorem setEnabled_qen : (setEnabled s).qen = s.qen := rfl
@[simp] theorem setEnabled_trace : (setEnabled s).trace = s.trace := rfl
@[simp] theorem setEnabled_response : (setEnabled s).response = s.response := rfl
@[simp] theorem setEnabled_responses : (setEnabled s).responses = s.responses := rfl
@[simp] theorem setEnabled_commands : (setEnabled s).commands = s.commands := rfl
@[simp] theorem setEnabled_draws : (setEnabled s).draws = s.draws := rfl

@[simp] theorem setTimerInitialised_ls (t : Timer) : (setTimerInitialised t s).ls = s.ls := rfl
@[simp] theorem setTimerInitialised_hold (t : Timer) : (setTimerInitialised t s).hold = s.hold := rfl
@[simp] theorem setTimerInitialised_en (t : Timer) : (setTimerInitialised t s).en = s.en := rfl
@[simp] theorem setTimerInitialised_tinit (t : Timer) : (setTimerInitialised t s).tinit = timerPut t true s.tinit := rfl
@[simp] theorem setTimerInitialised_tbase (t : Timer) : (setTimerInitialised t s).tbase = s.tbase := rfl
@[simp] theorem setTimerInitialised_pmode (t : Timer) : (setTimerInitialised t s).pmode = s.pmode := rfl
@[simp] theorem setTimerInitialised_cmp (t : Timer) : (setTimerInitialised t s).cmp = s.cmp := rfl
@[simp] theorem setTimerInitialised_cons (t : Timer) : (setTimerInitialised t s).cons = s.cons := rfl
@[simp] theorem setTimerInitialised_freq (t : Timer) : (setTimerInitialised t s).freq = s.freq := rfl
@[simp] theorem setTimerInitialised_pwmen (t : Timer) : (setTimerInitialised t s).pwmen = s.pwmen := rfl
@[simp] theorem setTimerInitialised_pinDir (t : Timer) : (setTimerInitialised t s).pinDir = s.pinDir := rfl
@[simp] theorem setTimerInitialised_pinLvl (t : Timer) : (setTimerInitialised t s).pinLvl = s.pinLvl := rfl
@[simp] theorem setTimerInitialised_pinWritten (t : Timer) : (setTimerInitialised t s).pinWritten = s.pinWritten := rfl
@[simp] theorem setTimerInitialised_sr (t : Timer) : (setTimerInitialised t s).sr = s.sr := rfl
@[simp] theorem setTimerInitialised_q (t : Timer) : (setTimerInitialised t s).q = s.q := rfl
@[simp] theorem setTimerInitialised_qen (t : Timer) : (setTimerInitialised t s).qen = s.qen := rfl
@[simp] theorem setTimerInitialised_trace (t : Timer) : (setTimerInitialised t s).trace = s.trace := rfl
@[simp] theorem setTimerInitialised_response (t : Timer) : (setTimerInitialised t s).response = s.response := rfl
@[simp] theorem setTimerInitialised_responses (t : Timer) : (setTimerInitialised t s).responses = s.responses := rfl
@[simp] theorem setTimerInitialised_commands (t : Timer) : (setTimerInitialised t s).commands = s.commands := rfl
@[simp] theorem setTimerInitialised_draws (t : Timer) : (setTimerInitialised t s).draws = s.draws := rfl

@[simp] theorem recordChannel_ls (n : Channel) (f : Byte) (w : Bool) : (recordChannel n f w s).ls = s.ls := rfl
@[simp] theorem recordChannel_hold (n : Channel) (f : Byte) (w : Bool) : (recordChannel n f w s).hold = s.hold := rfl
@[simp] theorem recordChannel_en (n : Channel) (f : Byte) (w : Bool) : (recordChannel n f w s).en = s.en := rfl
@[simp] theorem recordChannel_tinit (n : Channel) (f : Byte) (w : Bool) : (recordChannel n f w s).tinit = s.tinit := rfl
@[simp] theorem recordChannel_tbase (n : Channel) (f : Byte) (w : Bool) : (recordChannel n f w s).tbase = s.tbase := rfl
@[simp] theorem recordChannel_pmode (n : Channel) (f : Byte) (w : Bool) : (recordChannel n f w s).pmode = s.pmode := rfl
@[simp] theorem recordChannel_cmp (n : Channel) (f : Byte) (w : Bool) : (recordChannel n f w s).cmp = s.cmp := rfl
@[simp] theorem recordChannel_cons (n : Channel) (f : Byte) (w : Bool) : (recordChannel n f w s).cons = s.cons.set n true := rfl
@[simp] theorem recordChannel_freq (n : Channel) (f : Byte) (w : Bool) : (recordChannel n f w s).freq = s.freq.set n f := rfl
@[simp] theorem recordChannel_pwmen (n : Channel) (f : Byte) (w : Bool) : (recordChannel n f w s).pwmen = s.pwmen.set n w := rfl
@[simp] theorem recordChannel_pinDir (n : Channel) (f : Byte) (w : Bool) : (recordChannel n f w s).pinDir = s.pinDir := rfl
@[simp] theorem recordChannel_pinLvl (n : Channel) (f : Byte) (w : Bool) : (recordChannel n f w s).pinLvl = s.pinLvl := rfl
@[simp] theorem recordChannel_pinWritten (n : Channel) (f : Byte) (w : Bool) : (recordChannel n f w s).pinWritten = s.pinWritten := rfl
@[simp] theorem recordChannel_sr (n : Channel) (f : Byte) (w : Bool) : (recordChannel n f w s).sr = s.sr := rfl
@[simp] theorem recordChannel_q (n : Channel) (f : Byte) (w : Bool) : (recordChannel n f w s).q = s.q := rfl
@[simp] theorem recordChannel_qen (n : Channel) (f : Byte) (w : Bool) : (recordChannel n f w s).qen = s.qen := rfl
@[simp] theorem recordChannel_trace (n : Channel) (f : Byte) (w : Bool) : (recordChannel n f w s).trace = s.trace := rfl
@[simp] theorem recordChannel_response (n : Channel) (f : Byte) (w : Bool) : (recordChannel n f w s).response = s.response := rfl
@[simp] theorem recordChannel_responses (n : Channel) (f : Byte) (w : Bool) : (recordChannel n f w s).responses = s.responses := rfl
@[simp] theorem recordChannel_commands (n : Channel) (f : Byte) (w : Bool) : (recordChannel n f w s).commands = s.commands := rfl
@[simp] theorem recordChannel_draws (n : Channel) (f : Byte) (w : Bool) : (recordChannel n f w s).draws = s.draws := rfl

@[simp] theorem record_ls (e : Event) : (record e s).ls = s.ls := rfl
@[simp] theorem record_hold (e : Event) : (record e s).hold = s.hold := rfl
@[simp] theorem record_en (e : Event) : (record e s).en = s.en := rfl
@[simp] theorem record_tinit (e : Event) : (record e s).tinit = s.tinit := rfl
@[simp] theorem record_tbase (e : Event) : (record e s).tbase = s.tbase := rfl
@[simp] theorem record_pmode (e : Event) : (record e s).pmode = s.pmode := rfl
@[simp] theorem record_cmp (e : Event) : (record e s).cmp = s.cmp := rfl
@[simp] theorem record_cons (e : Event) : (record e s).cons = s.cons := rfl
@[simp] theorem record_freq (e : Event) : (record e s).freq = s.freq := rfl
@[simp] theorem record_pwmen (e : Event) : (record e s).pwmen = s.pwmen := rfl
@[simp] theorem record_pinDir (e : Event) : (record e s).pinDir = s.pinDir := rfl
@[simp] theorem record_pinLvl (e : Event) : (record e s).pinLvl = s.pinLvl := rfl
@[simp] theorem record_pinWritten (e : Event) : (record e s).pinWritten = s.pinWritten := rfl
@[simp] theorem record_sr (e : Event) : (record e s).sr = s.sr := rfl
@[simp] theorem record_q (e : Event) : (record e s).q = s.q := rfl
@[simp] theorem record_qen (e : Event) : (record e s).qen = s.qen := rfl
@[simp] theorem record_trace (e : Event) : (record e s).trace = s.trace ++ [e] := rfl
@[simp] theorem record_response (e : Event) : (record e s).response = s.response := rfl
@[simp] theorem record_responses (e : Event) : (record e s).responses = s.responses := rfl
@[simp] theorem record_commands (e : Event) : (record e s).commands = s.commands := rfl
@[simp] theorem record_draws (e : Event) : (record e s).draws = s.draws := rfl

@[simp] theorem pinCfg_ls (p : Pin) : (pinCfg p s).ls = s.ls := rfl
@[simp] theorem pinCfg_hold (p : Pin) : (pinCfg p s).hold = s.hold := rfl
@[simp] theorem pinCfg_en (p : Pin) : (pinCfg p s).en = s.en := rfl
@[simp] theorem pinCfg_tinit (p : Pin) : (pinCfg p s).tinit = s.tinit := rfl
@[simp] theorem pinCfg_tbase (p : Pin) : (pinCfg p s).tbase = s.tbase := rfl
@[simp] theorem pinCfg_pmode (p : Pin) : (pinCfg p s).pmode = s.pmode := rfl
@[simp] theorem pinCfg_cmp (p : Pin) : (pinCfg p s).cmp = s.cmp := rfl
@[simp] theorem pinCfg_cons (p : Pin) : (pinCfg p s).cons = s.cons := rfl
@[simp] theorem pinCfg_freq (p : Pin) : (pinCfg p s).freq = s.freq := rfl
@[simp] theorem pinCfg_pwmen (p : Pin) : (pinCfg p s).pwmen = s.pwmen := rfl
@[simp] theorem pinCfg_pinDir (p : Pin) : (pinCfg p s).pinDir = s.pinDir.set p .output := rfl
@[simp] theorem pinCfg_pinLvl (p : Pin) : (pinCfg p s).pinLvl = s.pinLvl := rfl
@[simp] theorem pinCfg_pinWritten (p : Pin) : (pinCfg p s).pinWritten = s.pinWritten := rfl
@[simp] theorem pinCfg_sr (p : Pin) : (pinCfg p s).sr = s.sr := rfl
@[simp] theorem pinCfg_q (p : Pin) : (pinCfg p s).q = s.q := rfl
@[simp] theorem pinCfg_qen (p : Pin) : (pinCfg p s).qen = s.qen := rfl
@[simp] theorem pinCfg_trace (p : Pin) : (pinCfg p s).trace = s.trace ++ [.cfg p] := rfl
@[simp] theorem pinCfg_response (p : Pin) : (pinCfg p s).response = s.response := rfl
@[simp] theorem pinCfg_responses (p : Pin) : (pinCfg p s).responses = s.responses := rfl
@[simp] theorem pinCfg_commands (p : Pin) : (pinCfg p s).commands = s.commands := rfl
@[simp] theorem pinCfg_draws (p : Pin) : (pinCfg p s).draws = s.draws := rfl

@[simp] theorem setLevel_ls (p : Pin) (l : Bool) : (setLevel p l s).ls = s.ls := rfl
@[simp] theorem setLevel_hold (p : Pin) (l : Bool) : (setLevel p l s).hold = s.hold := rfl
@[simp] theorem setLevel_en (p : Pin) (l : Bool) : (setLevel p l s).en = s.en := rfl
@[simp] theorem setLevel_tinit (p : Pin) (l : Bool) : (setLevel p l s).tinit = s.tinit := rfl
@[simp] theorem setLevel_tbase (p : Pin) (l : Bool) : (setLevel p l s).tbase = s.tbase := rfl
@[simp] theorem setLevel_pmode (p : Pin) (l : Bool) : (setLevel p l s).pmode = s.pmode := rfl
@[simp] theorem setLevel_cmp (p : Pin) (l : Bool) : (setLevel p l s).cmp = s.cmp := rfl
@[simp] theorem setLevel_cons (p : Pin) (l : Bool) : (setLevel p l s).cons = s.cons := rfl
@[simp] theorem setLevel_freq (p : Pin) (l : Bool) : (setLevel p l s).freq = s.freq := rfl
@[simp] theorem setLevel_pwmen (p : Pin) (l : Bool) : (setLevel p l s).pwmen = s.pwmen := rfl
@[simp] theorem setLevel_pinDir (p : Pin) (l : Bool) : (setLevel p l s).pinDir = s.pinDir := rfl
@[simp] theorem setLevel_pinLvl (p : Pin) (l : Bool) : (setLevel p l s).pinLvl = s.pinLvl.set p l := rfl
@[simp] theorem setLevel_pinWritten (p : Pin) (l : Bool) : (setLevel p l s).pinWritten = s.pinWritten.set p true := rfl
@[simp] theorem setLevel_sr (p : Pin) (l : Bool) : (setLevel p l s).sr = s.sr := rfl
@[simp] theorem setLevel_q (p : Pin) (l : Bool) : (setLevel p l s).q = s.q := rfl
@[simp] theorem setLevel_qen (p : Pin) (l : Bool) : (setLevel p l s).qen = s.qen := rfl
@[simp] theorem setLevel_trace (p : Pin) (l : Bool) : (setLevel p l s).trace = s.trace := rfl
@[simp] theorem setLevel_response (p : Pin) (l : Bool) : (setLevel p l s).response = s.response := rfl
@[simp] theorem setLevel_responses (p : Pin) (l : Bool) : (setLevel p l s).responses = s.responses := rfl
@[simp] theorem setLevel_commands (p : Pin) (l : Bool) : (setLevel p l s).commands = s.commands := rfl
@[simp] theorem setLevel_draws (p : Pin) (l : Bool) : (setLevel p l s).draws = s.draws := rfl

@[simp] theorem timerBaseCfg_ls (t : Timer) (f : Byte) : (timerBaseCfg t f s).ls = s.ls := rfl
@[simp] theorem timerBaseCfg_hold (t : Timer) (f : Byte) : (timerBaseCfg t f s).hold = s.hold := rfl
@[simp] theorem timerBaseCfg_en (t : Timer) (f : Byte) : (timerBaseCfg t f s).en = s.en := rfl
@[simp] theorem timerBaseCfg_tinit (t : Timer) (f : Byte) : (timerBaseCfg t f s).tinit = s.tinit := rfl
@[simp] theorem timerBaseCfg_tbase (t : Timer) (f : Byte) : (timerBaseCfg t f s).tbase = timerPut t f s.tbase := rfl
@[simp] theorem timerBaseCfg_pmode (t : Timer) (f : Byte) : (timerBaseCfg t f s).pmode = s.pmode := rfl
@[simp] theorem timerBaseCfg_cmp (t : Timer) (f : Byte) : (timerBaseCfg t f s).cmp = s.cmp := rfl
@[simp] theorem timerBaseCfg_cons (t : Timer) (f : Byte) : (timerBaseCfg t f s).cons = s.cons := rfl
@[simp] theorem timerBaseCfg_freq (t : Timer) (f : Byte) : (timerBaseCfg t f s).freq = s.freq := rfl
@[simp] theorem timerBaseCfg_pwmen (t : Timer) (f : Byte) : (timerBaseCfg t f s).pwmen = s.pwmen := rfl
@[simp] theorem timerBaseCfg_pinDir (t : Timer) (f : Byte) : (timerBaseCfg t f s).pinDir = s.pinDir := rfl
@[simp] theorem timerBaseCfg_pinLvl (t : Timer) (f : Byte) : (timerBaseCfg t f s).pinLvl = s.pinLvl := rfl
@[simp] theorem timerBaseCfg_pinWritten (t : Timer) (f : Byte) : (timerBaseCfg t f s).pinWritten = s.pinWritten := rfl
@[simp] theorem timerBaseCfg_sr (t : Timer) (f : Byte) : (timerBaseCfg t f s).sr = s.sr := rfl
@[simp] theorem timerBaseCfg_q (t : Timer) (f : Byte) : (timerBaseCfg t f s).q = s.q := rfl
@[simp] theorem timerBaseCfg_qen (t : Timer) (f : Byte) : (timerBaseCfg t f s).qen = s.qen := rfl
@[simp] theorem timerBaseCfg_trace (t : Timer) (f : Byte) : (timerBaseCfg t f s).trace = s.trace ++ [.timerBase t f] := rfl
@[simp] theorem timerBaseCfg_response (t : Timer) (f : Byte) : (timerBaseCfg t f s).response = s.response := rfl
@[simp] theorem timerBaseCfg_responses (t : Timer) (f : Byte) : (timerBaseCfg t f s).responses = s.responses := rfl
@[simp] theorem timerBaseCfg_commands (t : Timer) (f : Byte) : (timerBaseCfg t f s).commands = s.commands := rfl
@[simp] theorem timerBaseCfg_draws (t : Timer) (f : Byte) : (timerBaseCfg t f s).draws = s.draws := rfl

@[simp] theorem setMode_ls (n : Channel) (m : PMode) : (setMode n m s).ls = s.ls := rfl
@[simp] theorem setMode_hold (n : Channel) (m : PMode) : (setMode n m s).hold = s.hold := rfl
@[simp] theorem setMode_en (n : Channel) (m : PMode) : (setMode n m s).en = s.en := rfl
@[simp] theorem setMode_tinit (n : Channel) (m : PMode) : (setMode n m s).tinit = s.tinit := rfl
@[simp] theorem setMode_tbase (n : Channel) (m : PMode) : (setMode n m s).tbase = s.tbase := rfl
@[simp] theorem setMode_pmode (n : Channel) (m : PMode) : (setMode n m s).pmode = s.pmode.set n m := rfl
@[simp] theorem setMode_cmp (n : Channel) (m : PMode) : (setMode n m s).cmp = s.cmp := rfl
@[simp] theorem setMode_cons (n : Channel) (m : PMode) : (setMode n m s).cons = s.cons := rfl
@[simp] theorem setMode_freq (n : Channel) (m : PMode) : (setMode n m s).freq = s.freq := rfl
@[simp] theorem setMode_pwmen (n : Channel) (m : PMode) : (setMode n m s).pwmen = s.pwmen := rfl
@[simp] theorem setMode_pinDir (n : Channel) (m : PMode) : (setMode n m s).pinDir = s.pinDir := rfl
@[simp] theorem setMode_pinLvl (n : Channel) (m : PMode) : (setMode n m s).pinLvl = s.pinLvl := rfl
@[simp] theorem setMode_pinWritten (n : Channel) (m : PMode) : (setMode n m s).pinWritten = s.pinWritten := rfl
@[simp] theorem setMode_sr (n : Channel) (m : PMode) : (setMode n m s).sr = s.sr := rfl
@[simp] theorem setMode_q (n : Channel) (m : PMode) : (setMode n m s).q = s.q := rfl
@[simp] theorem setMode_qen (n : Channel) (m : PMode) : (setMode n m s).qen = s.qen := rfl
@[simp] theorem setMode_trace (n : Channel) (m : PMode) : (setMode n m s).trace = s.trace := rfl
@[simp] theorem setMode_response (n : Channel) (m : PMode) : (setMode n m s).response = s.response := rfl
@[simp] theorem setMode_responses (n : Channel) (m : PMode) : (setMode n m s).responses = s.responses := rfl
@[simp] theorem setMode_commands (n : Channel) (m : PMode) : (setMode n m s).commands = s.commands := rfl
@[simp] theorem setMode_draws (n : Channel) (m : PMode) : (setMode n m s).draws = s.draws := rfl

@[simp] theorem chanPwmCfg_ls (n : Channel) : (chanPwmCfg n s).ls = s.ls := rfl
@[simp] theorem chanPwmCfg_hold (n : Channel) : (chanPwmCfg n s).hold = s.hold := rfl
@[simp] theorem chanPwmCfg_en (n : Channel) : (chanPwmCfg n s).en = s.en := rfl
@[simp] theorem chanPwmCfg_tinit (n : Channel) : (chanPwmCfg n s).tinit = s.tinit := rfl
@[simp] theorem chanPwmCfg_tbase (n : Channel) : (chanPwmCfg n s).tbase = s.tbase := rfl
@[simp] theorem chanPwmCfg_pmode (n : Channel) : (chanPwmCfg n s).pmode = s.pmode.set n .pwm := rfl
@[simp] theorem chanPwmCfg_cmp (n : Channel) : (chanPwmCfg n s).cmp = s.cmp := rfl
@[simp] theorem chanPwmCfg_cons (n : Channel) : (chanPwmCfg n s).cons = s.cons := rfl
@[simp] theorem chanPwmCfg_freq (n : Channel) : (chanPwmCfg n s).freq = s.freq := rfl
@[simp] theorem chanPwmCfg_pwmen (n : Channel) : (chanPwmCfg n s).pwmen = s.pwmen := rfl
@[simp] theorem chanPwmCfg_pinDir (n : Channel) : (chanPwmCfg n s).pinDir = s.pinDir := rfl
@[simp] theorem chanPwmCfg_pinLvl (n : Channel) : (chanPwmCfg n s).pinLvl = s.pinLvl := rfl
@[simp] theorem chanPwmCfg_pinWritten (n : Channel) : (chanPwmCfg n s).pinWritten = s.pinWritten := rfl
@[simp] theorem chanPwmCfg_sr (n : Channel) : (chanPwmCfg n s).sr = s.sr := rfl
@[simp] theorem chanPwmCfg_q (n : Channel) : (chanPwmCfg n s).q = s.q := rfl
@[simp] theorem chanPwmCfg_qen (n : Channel) : (chanPwmCfg n s).qen = s.qen := rfl
@[simp] theorem chanPwmCfg_trace (n : Channel) : (chanPwmCfg n s).trace = s.trace ++ [.chanPwm n] := rfl
@[simp] theorem chanPwmCfg_response (n : Channel) : (chanPwmCfg n s).response = s.response := rfl
@[simp] theorem chanPwmCfg_responses (n : Channel) : (chanPwmCfg n s).responses = s.responses := rfl
@[simp] theorem chanPwmCfg_commands (n : Channel) : (chanPwmCfg n s).commands = s.commands := rfl
@[simp] theorem chanPwmCfg_draws (n : Channel) : (chanPwmCfg n s).draws = s.draws := rfl

@[simp] theorem cmpWrite_ls (n : Channel) (v : Byte) : (cmpWrite n v s).ls = s.ls := rfl
@[simp] theorem cmpWrite_hold (n : Channel) (v : Byte) : (cmpWrite n v s).hold = s.hold := rfl
@[simp] theorem cmpWrite_en (n : Channel) (v : Byte) : (cmpWrite n v s).en = s.en := rfl
@[simp] theorem cmpWrite_tinit (n : Channel) (v : Byte) : (cmpWrite n v s).tinit = s.tinit := rfl
@[simp] theorem cmpWrite_tbase (n : Channel) (v : Byte) : (cmpWrite n v s).tbase = s.tbase := rfl
@[simp] theorem cmpWrite_pmode (n : Channel) (v : Byte) : (cmpWrite n v s).pmode = s.pmode := rfl
@[simp] theorem cmpWrite_cmp (n : Channel) (v : Byte) : (cmpWrite n v s).cmp = s.cmp.set n v := rfl
@[simp] theorem cmpWrite_cons (n : Channel) (v : Byte) : (cmpWrite n v s).cons = s.cons := rfl
@[simp] theorem cmpWrite_freq (n : Channel) (v : Byte) : (cmpWrite n v s).freq = s.freq := rfl
@[simp] theorem cmpWrite_pwmen (n : Channel) (v : Byte) : (cmpWrite n v s).pwmen = s.pwmen := rfl
@[simp] theorem cmpWrite_pinDir (n : Channel) (v : Byte) : (cmpWrite n v s).pinDir = s.pinDir := rfl
@[simp] theorem cmpWrite_pinLvl (n : Channel) (v : Byte) : (cmpWrite n v s).pinLvl = s.pinLvl := rfl
@[simp] theorem cmpWrite_pinWritten (n : Channel) (v : Byte) : (cmpWrite n v s).pinWritten = s.pinWritten := rfl
@[simp] theorem cmpWrite_sr (n : Channel) (v : Byte) : (cmpWrite n v s).sr = s.sr := rfl
@[simp] theorem cmpWrite_q (n : Channel) (v : Byte) : (cmpWrite n v s).q = s.q := rfl
@[simp] theorem cmpWrite_qen (n : Channel) (v : Byte) : (cmpWrite n v s).qen = s.qen := rfl
@[simp] theorem cmpWrite_trace (n : Channel) (v : Byte) : (cmpWrite n v s).trace = s.trace ++ [.cmp n v] := rfl
@[simp] theorem cmpWrite_response (n : Channel) (v : Byte) : (cmpWrite n v s).response = s.response := rfl
@[simp] theorem cmpWrite_responses (n : Channel) (v : Byte) : (cmpWrite n v s).responses = s.responses := rfl
@[simp] theorem cmpWrite_commands (n : Channel) (v : Byte) : (cmpWrite n v s).commands = s.commands := rfl
@[simp] theorem cmpWrite_draws (n : Channel) (v : Byte) : (cmpWrite n v s).draws = s.draws := rfl

@[simp] theorem setLatchState_ls (v : Byte) : (setLatchState v s).ls = v := rfl
@[simp] theorem setLatchState_hold (v : Byte) : (setLatchState v s).hold = s.hold := rfl
@[simp] theorem setLatchState_en (v : Byte) : (setLatchState v s).en = s.en := rfl
@[simp] theorem setLatchState_tinit (v : Byte) : (setLatchState v s).tinit = s.tinit := rfl
@[simp] theorem setLatchState_tbase (v : Byte) : (setLatchState v s).tbase = s.tbase := rfl
@[simp] theorem setLatchState_pmode (v : Byte) : (setLatchState v s).pmode = s.pmode := rfl
@[simp] theorem setLatchState_cmp (v : Byte) : (setLatchState v s).cmp = s.cmp := rfl
@[simp] theorem setLatchState_cons (v : Byte) : (setLatchState v s).cons = s.cons := rfl
@[simp] theorem setLatchState_freq (v : Byte) : (setLatchState v s).freq = s.freq := rfl
@[simp] theorem setLatchState_pwmen (v : Byte) : (setLatchState v s).pwmen = s.pwmen := rfl
@[simp] theorem setLatchState_pinDir (v : Byte) : (setLatchState v s).pinDir = s.pinDir := rfl
@[simp] theorem setLatchState_pinLvl (v : Byte) : (setLatchState v s).pinLvl = s.pinLvl := rfl
@[simp] theorem setLatchState_pinWritten (v : Byte) : (setLatchState v s).pinWritten = s.pinWritten := rfl
@[simp] theorem setLatchState_sr (v : Byte) : (setLatchState v s).sr = s.sr := rfl
@[simp] theorem setLatchState_q (v : Byte) : (setLatchState v s).q = s.q := rfl
@[simp] theorem setLatchState_qen (v : Byte) : (setLatchState v s).qen = s.qen := rfl
@[simp] theorem setLatchState_trace (v : Byte) : (setLatchState v s).trace = s.trace := rfl
@[simp] theorem setLatchState_response (v : Byte) : (setLatchState v s).response = s.response := rfl
@[simp] theorem setLatchState_responses (v : Byte) : (setLatchState v s).responses = s.responses := rfl
@[simp] theorem setLatchState_commands (v : Byte) : (setLatchState v s).commands = s.commands := rfl
@[simp] theorem setLatchState_draws (v : Byte) : (setLatchState v s).draws = s.draws := rfl

@[simp] theorem maskedUpdate_ls (m v : Byte) : (maskedUpdate m v s).ls = (s.ls &&& ~~~m) ||| v := rfl
@[simp] theorem maskedUpdate_hold (m v : Byte) : (maskedUpdate m v s).hold = s.hold := rfl
@[simp] theorem maskedUpdate_en (m v : Byte) : (maskedUpdate m v s).en = s.en := rfl
@[simp] theorem maskedUpdate_tinit (m v : Byte) : (maskedUpdate m v s).tinit = s.tinit := rfl
@[simp] theorem maskedUpdate_tbase (m v : Byte) : (maskedUpdate m v s).tbase = s.tbase := rfl
@[simp] theorem maskedUpdate_pmode (m v : Byte) : (maskedUpdate m v s).pmode = s.pmode := rfl
@[simp] theorem maskedUpdate_cmp (m v : Byte) : (maskedUpdate m v s).cmp = s.cmp := rfl
@[simp] theorem maskedUpdate_cons (m v : Byte) : (maskedUpdate m v s).cons = s.cons := rfl
@[simp] theorem maskedUpdate_freq (m v : Byte) : (maskedUpdate m v s).freq = s.freq := rfl
@[simp] theorem maskedUpdate_pwmen (m v : Byte) : (maskedUpdate m v s).pwmen = s.pwmen := rfl
@[simp] theorem maskedUpdate_pinDir (m v : Byte) : (maskedUpdate m v s).pinDir = s.pinDir := rfl
@[simp] theorem maskedUpdate_pinLvl (m v : Byte) : (maskedUpdate m v s).pinLvl = s.pinLvl := rfl
@[simp] theorem maskedUpdate_pinWritten (m v : Byte) : (maskedUpdate m v s).pinWritten = s.pinWritten := rfl
@[simp] theorem maskedUpdate_sr (m v : Byte) : (maskedUpdate m v s).sr = s.sr := rfl
@[simp] theorem maskedUpdate_q (m v : Byte) : (maskedUpdate m v s).q = s.q := rfl
@[simp] theorem maskedUpdate_qen (m v : Byte) : (maskedUpdate m v s).qen = s.qen := rfl
@[simp] theorem maskedUpdate_trace (m v : Byte) : (maskedUpdate m v s).trace = s.trace := rfl
@[simp] theorem maskedUpdate_response (m v : Byte) : (maskedUpdate m v s).response = s.response := rfl
@[simp] theorem maskedUpdate_responses (m v : Byte) : (maskedUpdate m v s).responses = s.responses := rfl
@[simp] theorem maskedUpdate_commands (m v : Byte) : (maskedUpdate m v s).commands = s.commands := rfl
@[simp] theorem maskedUpdate_draws (m v : Byte) : (maskedUpdate m v s).draws = s.draws := rfl

@[simp] theorem respond_ls (v : Byte) : (respond v s).ls = s.ls := rfl
@[simp] theorem respond_hold (v : Byte) : (respond v s).hold = s.hold := rfl
@[simp] theorem respond_en (v : Byte) : (respond v s).en = s.en := rfl
@[simp] theorem respond_tinit (v : Byte) : (respond v s).tinit = s.tinit := rfl
@[simp] theorem respond_tbase (v : Byte) : (respond v s).tbase = s.tbase := rfl
@[simp] theorem respond_pmode (v : Byte) : (respond v s).pmode = s.pmode := rfl
@[simp] theorem respond_cmp (v : Byte) : (respond v s).cmp = s.cmp := rfl
@[simp] theorem respond_cons (v : Byte) : (respond v s).cons = s.cons := rfl
@[simp] theorem respond_freq (v : Byte) : (respond v s).freq = s.freq := rfl
@[simp] theorem respond_pwmen (v : Byte) : (respond v s).pwmen = s.pwmen := rfl
@[simp] theorem respond_pinDir (v : Byte) : (respond v s).pinDir = s.pinDir := rfl
@[simp] theorem respond_pinLvl (v : Byte) : (respond v s).pinLvl = s.pinLvl := rfl
@[simp] theorem respond_pinWritten (v : Byte) : (respond v s).pinWritten = s.pinWritten := rfl
@[simp] theorem respond_sr (v : Byte) : (respond v s).sr = s.sr := rfl
@[simp] theorem respond_q (v : Byte) : (respond v s).q = s.q := rfl
@[simp] theorem respond_qen (v : Byte) : (respond v s).qen = s.qen := rfl
@[simp] theorem respond_trace (v : Byte) : (respond v s).trace = s.trace := rfl
@[simp] theorem respond_response (v : Byte) : (respond v s).response = some v := rfl
@[simp] theorem respond_responses (v : Byte) : (respond v s).responses = s.responses ++ [v] := rfl
@[simp] theorem respond_commands (v : Byte) : (respond v s).commands = s.commands := rfl
@[simp] theorem respond_draws (v : Byte) : (respond v s).draws = s.draws := rfl

@[simp] theorem present_ls (w : Word) : (present w s).ls = s.ls := rfl
@[simp] theorem present_hold (w : Word) : (present w s).hold = s.hold := rfl
@[simp] theorem present_en (w : Word) : (present w s).en = s.en := rfl
@[simp] theorem present_tinit (w : Word) : (present w s).tinit = s.tinit := rfl
@[simp] theorem present_tbase (w : Word) : (present w s).tbase = s.tbase := rfl
@[simp] theorem present_pmode (w : Word) : (present w s).pmode = s.pmode := rfl
@[simp] theorem present_cmp (w : Word) : (present w s).cmp = s.cmp := rfl
@[simp] theorem present_cons (w : Word) : (present w s).cons = s.cons := rfl
@[simp] theorem present_freq (w : Word) : (present w s).freq = s.freq := rfl
@[simp] theorem present_pwmen (w : Word) : (present w s).pwmen = s.pwmen := rfl
@[simp] theorem present_pinDir (w : Word) : (present w s).pinDir = s.pinDir := rfl
@[simp] theorem present_pinLvl (w : Word) : (present w s).pinLvl = s.pinLvl := rfl
@[simp] theorem present_pinWritten (w : Word) : (present w s).pinWritten = s.pinWritten := rfl
@[simp] theorem present_sr (w : Word) : (present w s).sr = s.sr := rfl
@[simp] theorem present_q (w : Word) : (present w s).q = s.q := rfl
@[simp] theorem present_qen (w : Word) : (present w s).qen = s.qen := rfl
@[simp] theorem present_trace (w : Word) : (present w s).trace = s.trace := rfl
@[simp] theorem present_response (w : Word) : (present w s).response = s.response := rfl
@[simp] theorem present_responses (w : Word) : (present w s).responses = s.responses := rfl
@[simp] theorem present_commands (w : Word) : (present w s).commands = w :: s.commands := rfl
@[simp] theorem present_draws (w : Word) : (present w s).draws = s.draws := rfl

end Sys2Proof.Machine
end

