-- ==== Sys2Proof/Laws/Registers.lean ====
section
/-!
SUPPORT. Reading after writing one entry of a register file or of a timer list, the channel operand, and the bit masks of a channel.
-/

namespace Sys2Proof.Machine

@[simp] theorem perChannel_get_set_same {α : Type} (v : PerChannel α) (n : Channel) (x : α) : (v.set n x).get n = x := by
  cases n <;> rfl

theorem perChannel_get_set_other {α : Type} (v : PerChannel α) {n m : Channel} (x : α) (h : m ≠ n) :
    (v.set n x).get m = v.get m := by
  cases n <;> cases m <;> first | rfl | exact absurd rfl h

theorem perChannel_get_set {α : Type} (v : PerChannel α) (n m : Channel) (x : α) :
    (v.set n x).get m = if m = n then x else v.get m := by
  cases n <;> cases m <;> rfl

@[simp] theorem perPin_get_set_same {α : Type} (v : PerPin α) (p : Pin) (x : α) : (v.set p x).get p = x := by
  cases p <;> simp [PerPin.get, PerPin.set]

theorem perPin_get_set_other {α : Type} (v : PerPin α) {p r : Pin} (x : α) (h : r ≠ p) : (v.set p x).get r = v.get r := by
  cases p <;> cases r <;> simp_all [PerPin.get, PerPin.set, perChannel_get_set_other]

theorem perPin_get_set {α : Type} (v : PerPin α) (p r : Pin) (x : α) : (v.set p x).get r = if r = p then x else v.get r := by
  split
  · next h => subst h; exact perPin_get_set_same v r x
  · next h => exact perPin_get_set_other v x h

theorem timerLookup_put_same {α : Type} (t : Timer) (x : α) (l : List (Timer × α)) : timerLookup t (timerPut t x l) = some x := by
  induction l with
  | nil => simp [timerPut, timerLookup]
  | cons e rest ih =>
    obtain ⟨k, y⟩ := e
    simp only [timerPut]
    split
    · next h => simp [timerLookup, Nat.ne_of_lt h, ih]
    · split <;> simp [timerLookup]

theorem timerLookup_put_other {α : Type} {t u : Timer} (x : α) (l : List (Timer × α)) (h : u ≠ t) :
    timerLookup u (timerPut t x l) = timerLookup u l := by
  induction l with
  | nil => simp [timerPut, timerLookup, h.symm]
  | cons e rest ih =>
    obtain ⟨k, y⟩ := e
    simp only [timerPut]
    split
    · simp [timerLookup, ih]
    · split
      · next hk => subst hk; simp [timerLookup, h.symm]
      · simp [timerLookup, h.symm]

theorem timerPut_keys {α : Type} (t : Timer) (x : α) (l : List (Timer × α)) (k : Timer)
    (h : k ∈ (timerPut t x l).map Prod.fst) : k = t ∨ k ∈ l.map Prod.fst := by
  induction l with
  | nil => exact .inl (by simpa [timerPut] using h)
  | cons e rest ih =>
    obtain ⟨j, y⟩ := e
    simp only [timerPut] at h
    split at h
    · rcases List.mem_cons.mp h with h | h
      · exact .inr (by simp [h])
      · exact (ih h).imp id fun h => List.mem_cons_of_mem _ h
    · split at h
      · exact (List.mem_cons.mp h).imp id fun h => List.mem_cons_of_mem _ h
      · exact (List.mem_cons.mp h)

/-- Putting a timer's value keeps the timers rising. -/
theorem timerPut_rising {α : Type} (t : Timer) (x : α) (l : List (Timer × α)) (h : (l.map Prod.fst).Pairwise (· < ·)) :
    ((timerPut t x l).map Prod.fst).Pairwise (· < ·) := by
  induction l with
  | nil => simp [timerPut]
  | cons e rest ih =>
    obtain ⟨k, y⟩ := e
    have hk := List.pairwise_cons.mp h
    simp only [timerPut]
    split
    · next hlt =>
      refine List.pairwise_cons.mpr ⟨fun j hj => ?_, ih hk.2⟩
      rcases timerPut_keys t x rest j hj with rfl | hj
      · exact hlt
      · exact hk.1 j hj
    · split
      · next he => subst he; exact h
      · next hlt hne =>
        refine List.pairwise_cons.mpr ⟨fun j hj => ?_, h⟩
        have htk : t < k := Nat.lt_of_le_of_ne (Nat.le_of_not_lt hlt) (Ne.symm hne)
        rcases List.mem_cons.mp hj with rfl | hj
        · exact htk
        · exact Nat.lt_trans htk (hk.1 j hj)

theorem timerPut_mem {α : Type} (t : Timer) (x : α) (l : List (Timer × α)) (e : Timer × α) (h : e ∈ timerPut t x l) :
    e = (t, x) ∨ e ∈ l := by
  induction l with
  | nil => exact .inl (by simpa [timerPut] using h)
  | cons d rest ih =>
    obtain ⟨k, y⟩ := d
    simp only [timerPut] at h
    split at h
    · rcases List.mem_cons.mp h with h | h
      · exact .inr (by simp [h])
      · exact (ih h).imp id fun h => List.mem_cons_of_mem _ h
    · split at h
      · exact (List.mem_cons.mp h).imp id fun h => List.mem_cons_of_mem _ h
      · exact List.mem_cons.mp h

theorem timerInitialised_set (t u : Timer) (s : State) :
    timerInitialised u (setTimerInitialised t s) = (decide (u = t) || timerInitialised u s) := by
  by_cases h : u = t
  · subst h; simp [timerInitialised, timerLookup_put_same]
  · simp [timerInitialised, timerLookup_put_other _ _ h, h]

@[simp] theorem channelOf_number (n : Channel) : channelOf (channelNumber n) = some n := by
  cases n <;> rfl

/-- A channel operand names channel n exactly when it is n's number (30_encoding.md R49). -/
theorem channelOf_eq_some {ch : Byte} {n : Channel} (h : channelOf ch = some n) : ch = channelNumber n := by
  unfold channelOf at h
  split at h <;> cases h <;> rfl

theorem channelOf_eq_none {ch : Byte} (h : ∀ n, ch ≠ channelNumber n) : channelOf ch = none := by
  cases hc : channelOf ch with
  | none => rfl
  | some n => exact absurd (channelOf_eq_some hc) (h n)

theorem oneBit_getLsbD (k : Fin 8) (i : Nat) : (oneBit k).getLsbD i = decide (i = k.val) := by
  by_cases h : i < 8
  · have : ∀ (k : Fin 8) (i : Fin 8), (oneBit k).getLsbD i.val = decide (i.val = k.val) := by decide
    exact this k ⟨i, h⟩
  · have hk := k.isLt
    rw [BitVec.getLsbD_of_ge (oneBit k) i (by omega)]
    have hi : i ≠ k.val := by omega
    simp [hi]

theorem channelMask_getLsbD (P : Params) (n : Channel) (i : Nat) :
    (channelMask P n).getLsbD i = (decide (i = (P.bitA n).val) || decide (i = (P.bitB n).val)) := by
  simp [channelMask, oneBit_getLsbD]

/-- No terminal of one channel is a terminal of another, and a channel's two terminals differ (00_scope.md R6). -/
theorem bits_apart (P : Params) (n m : Channel) :
    (P.bitA n = P.bitA m → n = m) ∧ (P.bitB n = P.bitB m → n = m) ∧ P.bitA n ≠ P.bitB m := by
  have h := P.bits_distinct
  simp only [List.nodup_cons, List.mem_cons, List.not_mem_nil, or_false, not_or, List.nodup_nil, and_true, not_false_iff] at h
  cases n <;> cases m <;> simp_all [eq_comm]

/-- A mapping uses a timer more than once exactly when two different channels map to it (41_timer_backend.md R80). -/
theorem two_le_channelTimers_count (timerOf : Channel → Timer) (t : Timer) :
    2 ≤ (channelTimers timerOf).count t ↔ ∃ n m, n ≠ m ∧ timerOf n = t ∧ timerOf m = t := by
  simp only [channelTimers, List.count_cons, List.count_nil, beq_iff_eq]
  constructor
  · intro h
    by_cases h1 : timerOf .c1 = t <;> by_cases h2 : timerOf .c2 = t <;> by_cases h3 : timerOf .c3 = t <;>
      by_cases h4 : timerOf .c4 = t <;> simp only [h1, h2, h3, h4, if_true, if_false] at h <;>
      first
        | exact ⟨.c1, .c2, by decide, h1, h2⟩ | exact ⟨.c1, .c3, by decide, h1, h3⟩ | exact ⟨.c1, .c4, by decide, h1, h4⟩
        | exact ⟨.c2, .c3, by decide, h2, h3⟩ | exact ⟨.c2, .c4, by decide, h2, h4⟩ | exact ⟨.c3, .c4, by decide, h3, h4⟩
        | omega
  · rintro ⟨n, m, hne, hn, hm⟩
    cases n <;> cases m <;> first | exact absurd rfl hne | (simp only [hn, hm, if_true]; omega)

/-- A mapping is known from the timers of its four channels. -/
theorem channelTimers_inj {a b : Channel → Timer} (h : channelTimers a = channelTimers b) : a = b := by
  simp only [channelTimers, List.cons.injEq, and_true] at h
  funext n
  cases n <;> simp only [h]

/-- A timer that another channel also uses is shared (00_scope.md R6). -/
theorem timerShared_of_common (P : Params) {n m : Channel} (hne : n ≠ m) (h : channelTimer P n = channelTimer P m) :
    timerShared P (channelTimer P n) = true :=
  (P.shared_iff _ P.family_supported _).mpr ((two_le_channelTimers_count _ _).mpr ⟨n, m, hne, rfl, h.symm⟩)

/-- Bit k of a masked update (40_latch_driver.md R61). -/
theorem maskedUpdate_getLsbD (ls mask value : Byte) {k : Nat} (hk : k < 8) :
    ((ls &&& ~~~mask) ||| value).getLsbD k = if mask.getLsbD k then value.getLsbD k else (ls.getLsbD k || value.getLsbD k) := by
  simp only [BitVec.getLsbD_or, BitVec.getLsbD_and, BitVec.getLsbD_not, hk, decide_true, Bool.true_and]
  cases mask.getLsbD k <;> simp

/-- Bit k of LatchState after a direction is set on channel n (42_motor_channel.md R91, R94). -/
theorem directed_getLsbD (P : Params) (ls : Byte) (n : Channel) (dir : Direction) (k : Fin 8) :
    ((ls &&& ~~~(channelMask P n)) ||| directionValue P n dir).getLsbD k.val =
      if k = P.bitA n then decide (dir = .forward)
      else if k = P.bitB n then decide (dir = .backward)
      else ls.getLsbD k.val := by
  have hne : P.bitA n ≠ P.bitB n := (bits_apart P n n).2.2
  rw [maskedUpdate_getLsbD _ _ _ k.isLt, channelMask_getLsbD]
  have hval : (directionValue P n dir).getLsbD k.val =
      ((decide (dir = .forward) && decide (k = P.bitA n)) || (decide (dir = .backward) && decide (k = P.bitB n))) := by
    cases dir
    · exact BitVec.getLsbD_zero
    · simp only [directionValue, oneBit_getLsbD, Fin.ext_iff]; simp
    · simp only [directionValue, oneBit_getLsbD, Fin.ext_iff]; simp
  rw [hval]
  by_cases ha : k = P.bitA n
  · subst ha; simp [hne]
  · by_cases hb : k = P.bitB n
    · subst hb; simp [hne.symm]
    · simp [ha, hb, ← Fin.ext_iff]

/-- The duty threshold is the duty's top bit (41_timer_backend.md R84). -/
theorem dutyLevel_eq_bit (duty : Byte) : dutyLevel duty = duty.getLsbD 7 := by
  revert duty; decide

end Sys2Proof.Machine
end

