-- ==== Sys2Proof/Laws/Ops.lean ====
section
/-!
SUPPORT. For each shared operation, one lemma that says everything it can do: sequencing, a pin write, a bit group, a burst, a
transmission, the enabling.
-/

namespace Sys2Proof.Machine

/-! ## Sequencing -/

@[simp] theorem andThen_next (s : State) (f : State → Result) : andThen (.next s) f = f s := rfl
@[simp] theorem andThen_refused (why : Refusal) (f : State → Result) : andThen (.refused why) f = .refused why := rfl

/-- A sequence answers a next state exactly when its first part does and its second part does from there. -/
theorem andThen_eq_next {r : Result} {f : State → Result} {t : State} :
    andThen r f = .next t ↔ ∃ s, r = .next s ∧ f s = .next t := by
  cases r <;> simp [andThen]

theorem andThen_assoc (r : Result) (f g : State → Result) :
    andThen (andThen r f) g = andThen r (fun s => andThen (f s) g) := by
  cases r <;> rfl

/-! ## Pin writes -/

/-- A pin write completes exactly on an output pin, and then does this (00_scope.md R8). -/
theorem pinWrite_eq_next {P : Params} {p : Pin} {l : Bool} {s t : State} :
    pinWrite P p l s = .next t ↔ s.pinDir.get p = .output ∧ t = record (.write p l) (setLevel p l (observe P p l s)) := by
  unfold pinWrite
  split
  · next h => simp [h, eq_comm]
  · next h => simp [h]

theorem pinWrites_append (P : Params) (xs ys : List (Pin × Bool)) (s : State) :
    pinWrites P (xs ++ ys) s = andThen (pinWrites P xs s) (pinWrites P ys) := by
  induction xs generalizing s with
  | nil => rfl
  | cons x xs ih =>
    obtain ⟨p, l⟩ := x
    simp only [List.cons_append, pinWrites, andThen_assoc]
    congr 1
    exact funext ih

/-! ## A burst -/

/-- The state one bit group leaves (40_latch_driver.md R62; 60_exceptions.md R109). -/
def afterBit (b : Bool) (s : State) : State :=
  { s with
    pinLvl := { s.pinLvl with data := b, clk := true }
    pinWritten := { s.pinWritten with data := true, clk := true }
    sr := shiftIn s.sr b
    trace := s.trace ++ bitEvents b }

@[simp] theorem afterBit_ls (b : Bool) (s : State) : (afterBit b s).ls = s.ls := rfl
@[simp] theorem afterBit_hold (b : Bool) (s : State) : (afterBit b s).hold = s.hold := rfl
@[simp] theorem afterBit_en (b : Bool) (s : State) : (afterBit b s).en = s.en := rfl
@[simp] theorem afterBit_tinit (b : Bool) (s : State) : (afterBit b s).tinit = s.tinit := rfl
@[simp] theorem afterBit_tbase (b : Bool) (s : State) : (afterBit b s).tbase = s.tbase := rfl
@[simp] theorem afterBit_pmode (b : Bool) (s : State) : (afterBit b s).pmode = s.pmode := rfl
@[simp] theorem afterBit_cmp (b : Bool) (s : State) : (afterBit b s).cmp = s.cmp := rfl
@[simp] theorem afterBit_cons (b : Bool) (s : State) : (afterBit b s).cons = s.cons := rfl
@[simp] theorem afterBit_freq (b : Bool) (s : State) : (afterBit b s).freq = s.freq := rfl
@[simp] theorem afterBit_pwmen (b : Bool) (s : State) : (afterBit b s).pwmen = s.pwmen := rfl
@[simp] theorem afterBit_pinDir (b : Bool) (s : State) : (afterBit b s).pinDir = s.pinDir := rfl
@[simp] theorem afterBit_pinLvl (b : Bool) (s : State) : (afterBit b s).pinLvl = { s.pinLvl with data := b, clk := true } := rfl
@[simp] theorem afterBit_pinWritten (b : Bool) (s : State) : (afterBit b s).pinWritten = { s.pinWritten with data := true, clk := true } := rfl
@[simp] theorem afterBit_sr (b : Bool) (s : State) : (afterBit b s).sr = shiftIn s.sr b := rfl
@[simp] theorem afterBit_q (b : Bool) (s : State) : (afterBit b s).q = s.q := rfl
@[simp] theorem afterBit_qen (b : Bool) (s : State) : (afterBit b s).qen = s.qen := rfl
@[simp] theorem afterBit_trace (b : Bool) (s : State) : (afterBit b s).trace = s.trace ++ bitEvents b := rfl
@[simp] theorem afterBit_response (b : Bool) (s : State) : (afterBit b s).response = s.response := rfl
@[simp] theorem afterBit_responses (b : Bool) (s : State) : (afterBit b s).responses = s.responses := rfl
@[simp] theorem afterBit_commands (b : Bool) (s : State) : (afterBit b s).commands = s.commands := rfl
@[simp] theorem afterBit_draws (b : Bool) (s : State) : (afterBit b s).draws = s.draws := rfl

/-- Clock low, data, clock high on configured lines shift the data in, whatever the clock's level was before. -/
theorem pinWrites_bit (P : Params) (b : Bool) {s : State} (hd : s.pinDir.data = .output) (hc : s.pinDir.clk = .output) :
    pinWrites P [(.clk, false), (.data, b), (.clk, true)] s = .next (afterBit b s) := by
  simp [pinWrites, pinWrite, PerPin.get, hd, hc, observe, observeClock, setLevel, record, PerPin.set, afterBit, bitEvents]

theorem pinWrites_bit_append (P : Params) (b : Bool) (rest : List (Pin × Bool)) {s : State}
    (hd : s.pinDir.data = .output) (hc : s.pinDir.clk = .output) :
    pinWrites P ((.clk, false) :: (.data, b) :: (.clk, true) :: rest) s = pinWrites P rest (afterBit b s) := by
  have h := pinWrites_append P [(.clk, false), (.data, b), (.clk, true)] rest s
  rwa [pinWrites_bit P b hd hc] at h

/-- The state the bit groups of `bs` and then of `b` leave. -/
def afterBits (bs : List Bool) (b : Bool) (s : State) : State :=
  { s with
    pinLvl := { s.pinLvl with data := b, clk := true }
    pinWritten := { s.pinWritten with data := true, clk := true }
    sr := (bs ++ [b]).foldl shiftIn s.sr
    trace := s.trace ++ (bs ++ [b]).flatMap bitEvents }

/-- The three writes of one bit. -/
def bitWrites (b : Bool) : List (Pin × Bool) := [(.clk, false), (.data, b), (.clk, true)]

theorem pinWrites_bits (P : Params) (bs : List Bool) (b : Bool) {s : State} (hd : s.pinDir.data = .output)
    (hc : s.pinDir.clk = .output) : pinWrites P ((bs ++ [b]).flatMap bitWrites) s = .next (afterBits bs b s) := by
  induction bs generalizing s with
  | nil => exact pinWrites_bit P b hd hc
  | cons x bs ih =>
    have hstep : pinWrites P ((x :: bs ++ [b]).flatMap bitWrites) s =
        pinWrites P ((bs ++ [b]).flatMap bitWrites) (afterBit x s) := pinWrites_bit_append P x _ hd hc
    rw [hstep, ih (by simpa using hd) (by simpa using hc)]
    simp [afterBits, afterBit]

/-- Eight bits shifted in, most significant first, fill the shift stage (60_exceptions.md R111). -/
theorem shiftIn_eight (sr v : Byte) :
    [v.getLsbD 7, v.getLsbD 6, v.getLsbD 5, v.getLsbD 4, v.getLsbD 3, v.getLsbD 2, v.getLsbD 1, v.getLsbD 0].foldl shiftIn sr
      = v := by
  apply BitVec.eq_of_getLsbD_eq
  intro i hi
  have : i = 0 ∨ i = 1 ∨ i = 2 ∨ i = 3 ∨ i = 4 ∨ i = 5 ∨ i = 6 ∨ i = 7 := by omega
  rcases this with rfl | rfl | rfl | rfl | rfl | rfl | rfl | rfl <;> simp [shiftIn]

/-- The closing latch write of a burst commits the shift stage (60_exceptions.md R110). -/
theorem pinWrites_commit (P : Params) {s : State} (hl : s.pinDir.latch = .output) (hlow : s.pinLvl.latch = false) :
    pinWrites P [(.latch, true)] s = .next { s with
      pinLvl := { s.pinLvl with latch := true }
      pinWritten := { s.pinWritten with latch := true }
      q := s.sr
      trace := s.trace ++ [.write .latch true] } := by
  simp [pinWrites, pinWrite, PerPin.get, hl, observe, observeLatch, hlow, setLevel, record, PerPin.set]

@[simp] theorem afterBurst_ls (s : State) : (afterBurst s).ls = s.ls := rfl
@[simp] theorem afterBurst_hold (s : State) : (afterBurst s).hold = s.hold := rfl
@[simp] theorem afterBurst_en (s : State) : (afterBurst s).en = s.en := rfl
@[simp] theorem afterBurst_tinit (s : State) : (afterBurst s).tinit = s.tinit := rfl
@[simp] theorem afterBurst_tbase (s : State) : (afterBurst s).tbase = s.tbase := rfl
@[simp] theorem afterBurst_pmode (s : State) : (afterBurst s).pmode = s.pmode := rfl
@[simp] theorem afterBurst_cmp (s : State) : (afterBurst s).cmp = s.cmp := rfl
@[simp] theorem afterBurst_cons (s : State) : (afterBurst s).cons = s.cons := rfl
@[simp] theorem afterBurst_freq (s : State) : (afterBurst s).freq = s.freq := rfl
@[simp] theorem afterBurst_pwmen (s : State) : (afterBurst s).pwmen = s.pwmen := rfl
@[simp] theorem afterBurst_pinDir (s : State) : (afterBurst s).pinDir = s.pinDir := rfl
@[simp] theorem afterBurst_pinLvl (s : State) : (afterBurst s).pinLvl = { s.pinLvl with data := s.ls.getLsbD 0, clk := true, latch := true } := rfl
@[simp] theorem afterBurst_pinWritten (s : State) : (afterBurst s).pinWritten = { s.pinWritten with data := true, clk := true, latch := true } := rfl
@[simp] theorem afterBurst_sr (s : State) : (afterBurst s).sr = s.ls := rfl
@[simp] theorem afterBurst_q (s : State) : (afterBurst s).q = s.ls := rfl
@[simp] theorem afterBurst_qen (s : State) : (afterBurst s).qen = s.qen := rfl
@[simp] theorem afterBurst_trace (s : State) : (afterBurst s).trace = s.trace ++ txEvents s.ls := rfl
@[simp] theorem afterBurst_response (s : State) : (afterBurst s).response = s.response := rfl
@[simp] theorem afterBurst_responses (s : State) : (afterBurst s).responses = s.responses := rfl
@[simp] theorem afterBurst_commands (s : State) : (afterBurst s).commands = s.commands := rfl
@[simp] theorem afterBurst_draws (s : State) : (afterBurst s).draws = s.draws := rfl

/-- A burst on configured lines leaves exactly `afterBurst` (40_latch_driver.md R62; 60_exceptions.md R111). -/
theorem burst_ready (P : Params) {s : State} (h : serialReady s) : burst P s = .next (afterBurst s) := by
  obtain ⟨hd, hc, hl⟩ := h
  have hw : burstWrites s.ls = (.latch, false) :: (([s.ls.getLsbD 7, s.ls.getLsbD 6, s.ls.getLsbD 5, s.ls.getLsbD 4,
      s.ls.getLsbD 3, s.ls.getLsbD 2, s.ls.getLsbD 1] ++ [s.ls.getLsbD 0]).flatMap bitWrites ++ [(.latch, true)]) := rfl
  have hfirst : pinWrite P .latch false s = .next (record (.write .latch false) (setLevel .latch false s)) := by
    simp [pinWrite, PerPin.get, hl, observe, observeLatch]
  rw [burst, hw, pinWrites, hfirst, andThen_next, pinWrites_append, pinWrites_bits P _ _ (by simpa using hd) (by simpa using hc),
    andThen_next, pinWrites_commit P (by simpa [afterBits] using hl) (by simp [afterBits, PerPin.set])]
  simpa [afterBits, afterBurst, PerPin.set, txEvents] using shiftIn_eight s.sr s.ls

theorem burstWrites_start (v : Byte) :
    ∃ rest, burstWrites v = (.latch, false) :: (.clk, false) :: (.data, v.getLsbD 7) :: rest := ⟨_, rfl⟩

/-- A burst completes only on configured lines. -/
theorem burst_eq_next {P : Params} {s t : State} : burst P s = .next t ↔ serialReady s ∧ t = afterBurst s := by
  constructor
  · intro h
    have hr : serialReady s := by
      obtain ⟨rest, hw⟩ := burstWrites_start s.ls
      rw [burst, hw] at h
      simp only [pinWrites, andThen_eq_next, pinWrite_eq_next] at h
      obtain ⟨s1, ⟨hl, rfl⟩, s2, ⟨hc, rfl⟩, s3, ⟨hd, rfl⟩, -⟩ := h
      exact ⟨by simpa [observe, observeClock, observeLatch, PerPin.get] using hd,
        by simpa [observe, observeLatch, PerPin.get] using hc, hl⟩
    rw [burst_ready P hr] at h
    cases h
    exact ⟨hr, rfl⟩
  · rintro ⟨hr, rfl⟩
    exact burst_ready P hr

/-- A burst that finds a serial line unconfigured is refused for the first such line in the order latch, clock, data. -/
theorem burst_unready (P : Params) {s : State} (h : ¬ serialReady s) :
    burst P s = .refused (.pinNotConfigured
      (if s.pinDir.latch = .output then if s.pinDir.clk = .output then .data else .clk else .latch)) := by
  obtain ⟨rest, hw⟩ := burstWrites_start s.ls
  rw [burst, hw]
  cases hl : s.pinDir.latch with
  | unconfigured => simp [pinWrites, pinWrite, PerPin.get, hl]
  | output =>
    cases hc : s.pinDir.clk with
    | unconfigured => simp [pinWrites, pinWrite, PerPin.get, hl, hc, observe, observeLatch]
    | output =>
      cases hd : s.pinDir.data with
      | unconfigured => simp [pinWrites, pinWrite, PerPin.get, hl, hc, hd, observe, observeLatch, observeClock]
      | output => exact absurd ⟨hd, hc, hl⟩ h

/-- Everything `TRANSMIT` can do when it completes (40_latch_driver.md R62). -/
theorem transmission_eq_next {P : Params} {s t : State} :
    transmission P s = .next t ↔ (s.hold = false → serialReady s) ∧ t = afterTransmission s := by
  unfold transmission afterTransmission
  cases hh : s.hold with
  | true => simp [eq_comm]
  | false => simpa using burst_eq_next

theorem transmission_ready (P : Params) {s : State} (h : s.hold = false → serialReady s) :
    transmission P s = .next (afterTransmission s) :=
  transmission_eq_next.mpr ⟨h, rfl⟩


/-- A held transmission is nothing at all (40_latch_driver.md R62). -/
theorem transmission_held (P : Params) {s : State} (h : s.hold = true) : transmission P s = .next s := by
  simp [transmission, h]

/-- A transmission that is not held is a burst (40_latch_driver.md R62). -/
theorem transmission_free (P : Params) {s : State} (h : s.hold = false) : transmission P s = burst P s := by
  simp [transmission, h]

/-! ## Enabling -/

/-- Enabling a block that is not enabled always completes, and leaves exactly `afterEnable` (40_latch_driver.md R60). -/
theorem enabling_fresh (P : Params) {s : State} (h : s.en = false) : enabling P s = .next (afterEnable P s) := by
  have hready : serialReady (setLatchState 0#8 (configureControl s)) := by
    simp [serialReady, configureControl, PerPin.set]
  rw [enabling, h, if_neg Bool.false_ne_true, transmission_ready P (fun _ => hready), andThen_next]
  cases hh : s.hold <;>
    simp [afterTransmission, hh, pinWrite, PerPin.get, PerPin.set, configureControl, pinCfg, setLatchState, record, afterEnable,
      afterBurst, setEnabled, setLevel, observe, observeOutputEnable]

/-- Everything `ENABLE` can do when it completes (40_latch_driver.md R60). -/
theorem enabling_eq_next {P : Params} {s t : State} : enabling P s = .next t ↔ s.en = false ∧ t = afterEnable P s := by
  cases h : s.en with
  | false => rw [enabling_fresh P h]; simp [eq_comm]
  | true => simp [enabling, h]

theorem lazyEnable_eq_next {P : Params} {s t : State} :
    lazyEnable P s = .next t ↔ t = if s.en then s else afterEnable P s := by
  unfold lazyEnable
  cases h : s.en with
  | true => simp [eq_comm]
  | false => simp [enabling_fresh P h, eq_comm]

/-! ## Speed and construction -/

/-- Everything `PWMSET` can do to a valid channel when it completes (41_timer_backend.md R83). -/
theorem writeDuty_eq_next {P : Params} {n : Channel} {duty : Byte} {s t : State} :
    writeDuty P n duty s = .next t ↔
      (s.pmode.get n = .pwm ∧ t = cmpWrite n duty s) ∨
      (s.pmode.get n = .digital ∧ s.pinDir.get (.pwm n) = .output ∧
        t = record (.write (.pwm n) (dutyLevel duty)) (setLevel (.pwm n) (dutyLevel duty) s)) := by
  unfold writeDuty
  split
  · next h => simp [h, eq_comm]
  · next h => simp [h, pinWrite_eq_next, observe]
  · next h => simp [h]

/-! ## Initialising a PWM pin -/

@[simp] theorem programBase_ls (P : Params) (n : Channel) (f : Byte) (s : State) : (programBase P n f s).ls = s.ls := by
  unfold programBase; split <;> rfl

@[simp] theorem programBase_hold (P : Params) (n : Channel) (f : Byte) (s : State) : (programBase P n f s).hold = s.hold := by
  unfold programBase; split <;> rfl

@[simp] theorem programBase_en (P : Params) (n : Channel) (f : Byte) (s : State) : (programBase P n f s).en = s.en := by
  unfold programBase; split <;> rfl

@[simp] theorem programBase_pmode (P : Params) (n : Channel) (f : Byte) (s : State) : (programBase P n f s).pmode = s.pmode := by
  unfold programBase; split <;> rfl

@[simp] theorem programBase_cmp (P : Params) (n : Channel) (f : Byte) (s : State) : (programBase P n f s).cmp = s.cmp := by
  unfold programBase; split <;> rfl

@[simp] theorem programBase_cons (P : Params) (n : Channel) (f : Byte) (s : State) : (programBase P n f s).cons = s.cons := by
  unfold programBase; split <;> rfl

@[simp] theorem programBase_freq (P : Params) (n : Channel) (f : Byte) (s : State) : (programBase P n f s).freq = s.freq := by
  unfold programBase; split <;> rfl

@[simp] theorem programBase_pwmen (P : Params) (n : Channel) (f : Byte) (s : State) : (programBase P n f s).pwmen = s.pwmen := by
  unfold programBase; split <;> rfl

@[simp] theorem programBase_pinDir (P : Params) (n : Channel) (f : Byte) (s : State) : (programBase P n f s).pinDir = s.pinDir := by
  unfold programBase; split <;> rfl

@[simp] theorem programBase_pinLvl (P : Params) (n : Channel) (f : Byte) (s : State) : (programBase P n f s).pinLvl = s.pinLvl := by
  unfold programBase; split <;> rfl

@[simp] theorem programBase_pinWritten (P : Params) (n : Channel) (f : Byte) (s : State) : (programBase P n f s).pinWritten = s.pinWritten := by
  unfold programBase; split <;> rfl

@[simp] theorem programBase_sr (P : Params) (n : Channel) (f : Byte) (s : State) : (programBase P n f s).sr = s.sr := by
  unfold programBase; split <;> rfl

@[simp] theorem programBase_q (P : Params) (n : Channel) (f : Byte) (s : State) : (programBase P n f s).q = s.q := by
  unfold programBase; split <;> rfl

@[simp] theorem programBase_qen (P : Params) (n : Channel) (f : Byte) (s : State) : (programBase P n f s).qen = s.qen := by
  unfold programBase; split <;> rfl

@[simp] theorem programBase_response (P : Params) (n : Channel) (f : Byte) (s : State) : (programBase P n f s).response = s.response := by
  unfold programBase; split <;> rfl

@[simp] theorem programBase_responses (P : Params) (n : Channel) (f : Byte) (s : State) : (programBase P n f s).responses = s.responses := by
  unfold programBase; split <;> rfl

@[simp] theorem programBase_commands (P : Params) (n : Channel) (f : Byte) (s : State) : (programBase P n f s).commands = s.commands := by
  unfold programBase; split <;> rfl

@[simp] theorem programBase_draws (P : Params) (n : Channel) (f : Byte) (s : State) : (programBase P n f s).draws = s.draws := by
  unfold programBase; split <;> rfl

/-- Whether channel n's timer must be programmed: it is not shared, or not initialised yet (41_timer_backend.md R81). -/
theorem programBase_due {P : Params} {n : Channel} {s : State} (freq : Byte)
    (h : timerShared P (channelTimer P n) = true → timerInitialised (channelTimer P n) s = false) :
    programBase P n freq s = setTimerInitialised (channelTimer P n) (timerBaseCfg (channelTimer P n) freq s) := by
  unfold programBase
  cases hs : timerShared P (channelTimer P n) with
  | false => simp
  | true => simp [h hs]

/-- A shared timer that is initialised is left alone (41_timer_backend.md R82). -/
theorem programBase_done {P : Params} {n : Channel} {s : State} (freq : Byte)
    (hs : timerShared P (channelTimer P n) = true) (hi : timerInitialised (channelTimer P n) s = true) :
    programBase P n freq s = s := by
  simp [programBase, hs, hi]

@[simp] theorem initialisePwm_ls (P : Params) (n : Channel) (f : Byte) (w : Bool) (s : State) :
    (initialisePwm P n f w s).ls = s.ls := by
  unfold initialisePwm; split <;> simp

@[simp] theorem initialisePwm_hold (P : Params) (n : Channel) (f : Byte) (w : Bool) (s : State) :
    (initialisePwm P n f w s).hold = s.hold := by
  unfold initialisePwm; split <;> simp

@[simp] theorem initialisePwm_en (P : Params) (n : Channel) (f : Byte) (w : Bool) (s : State) :
    (initialisePwm P n f w s).en = s.en := by
  unfold initialisePwm; split <;> simp

@[simp] theorem initialisePwm_cons (P : Params) (n : Channel) (f : Byte) (w : Bool) (s : State) :
    (initialisePwm P n f w s).cons = s.cons := by
  unfold initialisePwm; split <;> simp

@[simp] theorem initialisePwm_freq (P : Params) (n : Channel) (f : Byte) (w : Bool) (s : State) :
    (initialisePwm P n f w s).freq = s.freq := by
  unfold initialisePwm; split <;> simp

@[simp] theorem initialisePwm_pwmen (P : Params) (n : Channel) (f : Byte) (w : Bool) (s : State) :
    (initialisePwm P n f w s).pwmen = s.pwmen := by
  unfold initialisePwm; split <;> simp

@[simp] theorem initialisePwm_pinLvl (P : Params) (n : Channel) (f : Byte) (w : Bool) (s : State) :
    (initialisePwm P n f w s).pinLvl = s.pinLvl := by
  unfold initialisePwm; split <;> simp

@[simp] theorem initialisePwm_pinWritten (P : Params) (n : Channel) (f : Byte) (w : Bool) (s : State) :
    (initialisePwm P n f w s).pinWritten = s.pinWritten := by
  unfold initialisePwm; split <;> simp

@[simp] theorem initialisePwm_sr (P : Params) (n : Channel) (f : Byte) (w : Bool) (s : State) :
    (initialisePwm P n f w s).sr = s.sr := by
  unfold initialisePwm; split <;> simp

@[simp] theorem initialisePwm_q (P : Params) (n : Channel) (f : Byte) (w : Bool) (s : State) :
    (initialisePwm P n f w s).q = s.q := by
  unfold initialisePwm; split <;> simp

@[simp] theorem initialisePwm_qen (P : Params) (n : Channel) (f : Byte) (w : Bool) (s : State) :
    (initialisePwm P n f w s).qen = s.qen := by
  unfold initialisePwm; split <;> simp

@[simp] theorem initialisePwm_response (P : Params) (n : Channel) (f : Byte) (w : Bool) (s : State) :
    (initialisePwm P n f w s).response = s.response := by
  unfold initialisePwm; split <;> simp

@[simp] theorem initialisePwm_responses (P : Params) (n : Channel) (f : Byte) (w : Bool) (s : State) :
    (initialisePwm P n f w s).responses = s.responses := by
  unfold initialisePwm; split <;> simp

@[simp] theorem initialisePwm_commands (P : Params) (n : Channel) (f : Byte) (w : Bool) (s : State) :
    (initialisePwm P n f w s).commands = s.commands := by
  unfold initialisePwm; split <;> simp

@[simp] theorem initialisePwm_draws (P : Params) (n : Channel) (f : Byte) (w : Bool) (s : State) :
    (initialisePwm P n f w s).draws = s.draws := by
  unfold initialisePwm; split <;> simp

/-- Everything the channel's own part of `CONSTRUCT` can do when it completes (42_motor_channel.md R90). -/
theorem constructChannel_eq_next {P : Params} {n : Channel} {freq : Byte} {pwm : Bool} {s t : State} :
    constructChannel P n freq pwm s = .next t ↔ (s.hold = false → serialReady s) ∧
      t = recordChannel n freq pwm (initialisePwm P n freq pwm (afterTransmission (maskedUpdate (channelMask P n) 0#8 s))) := by
  rw [constructChannel, andThen_eq_next]
  constructor
  · rintro ⟨s1, h1, h2⟩
    obtain ⟨hready, rfl⟩ := transmission_eq_next.mp h1
    cases h2
    exact ⟨hready, rfl⟩
  · rintro ⟨hready, rfl⟩
    exact ⟨_, transmission_ready P hready, rfl⟩

end Sys2Proof.Machine
end

