-- ==== Sys2Proof/Laws/Fields.lean ====
section
/-!
SUPPORT. What a transmission, the enabling and the base of a construction leave in each field.
-/

namespace Sys2Proof.Machine

variable (P : Params) (s : State)

@[simp] theorem afterTransmission_ls : (afterTransmission s).ls = s.ls := by
  unfold afterTransmission; split <;> rfl

@[simp] theorem afterTransmission_hold : (afterTransmission s).hold = s.hold := by
  unfold afterTransmission; split <;> rfl

@[simp] theorem afterTransmission_en : (afterTransmission s).en = s.en := by
  unfold afterTransmission; split <;> rfl

@[simp] theorem afterTransmission_tinit : (afterTransmission s).tinit = s.tinit := by
  unfold afterTransmission; split <;> rfl

@[simp] theorem afterTransmission_tbase : (afterTransmission s).tbase = s.tbase := by
  unfold afterTransmission; split <;> rfl

@[simp] theorem afterTransmission_pmode : (afterTransmission s).pmode = s.pmode := by
  unfold afterTransmission; split <;> rfl

@[simp] theorem afterTransmission_cmp : (afterTransmission s).cmp = s.cmp := by
  unfold afterTransmission; split <;> rfl

@[simp] theorem afterTransmission_cons : (afterTransmission s).cons = s.cons := by
  unfold afterTransmission; split <;> rfl

@[simp] theorem afterTransmission_freq : (afterTransmission s).freq = s.freq := by
  unfold afterTransmission; split <;> rfl

@[simp] theorem afterTransmission_pwmen : (afterTransmission s).pwmen = s.pwmen := by
  unfold afterTransmission; split <;> rfl

@[simp] theorem afterTransmission_pinDir : (afterTransmission s).pinDir = s.pinDir := by
  unfold afterTransmission; split <;> rfl

@[simp] theorem afterTransmission_qen : (afterTransmission s).qen = s.qen := by
  unfold afterTransmission; split <;> rfl

@[simp] theorem afterTransmission_response : (afterTransmission s).response = s.response := by
  unfold afterTransmission; split <;> rfl

@[simp] theorem afterTransmission_responses : (afterTransmission s).responses = s.responses := by
  unfold afterTransmission; split <;> rfl

@[simp] theorem afterTransmission_commands : (afterTransmission s).commands = s.commands := by
  unfold afterTransmission; split <;> rfl

@[simp] theorem afterTransmission_draws : (afterTransmission s).draws = s.draws := by
  unfold afterTransmission; split <;> rfl

@[simp] theorem afterTransmission_pinLvl_oe : (afterTransmission s).pinLvl.oe = s.pinLvl.oe := by
  unfold afterTransmission; split <;> rfl

@[simp] theorem afterTransmission_pinLvl_pwm : (afterTransmission s).pinLvl.pwm = s.pinLvl.pwm := by
  unfold afterTransmission; split <;> rfl

@[simp] theorem afterTransmission_pinWritten_oe : (afterTransmission s).pinWritten.oe = s.pinWritten.oe := by
  unfold afterTransmission; split <;> rfl

@[simp] theorem afterTransmission_pinWritten_pwm : (afterTransmission s).pinWritten.pwm = s.pinWritten.pwm := by
  unfold afterTransmission; split <;> rfl

theorem afterTransmission_trace : (afterTransmission s).trace = s.trace ++ if s.hold then [] else txEvents s.ls := by
  unfold afterTransmission; split <;> simp_all

theorem afterTransmission_held {s : State} (h : s.hold = true) : afterTransmission s = s := by
  simp [afterTransmission, h]

theorem afterTransmission_free {s : State} (h : s.hold = false) : afterTransmission s = afterBurst s := by
  simp [afterTransmission, h]

@[simp] theorem afterEnable_hold : (afterEnable P s).hold = s.hold := by
  simp [afterEnable]

@[simp] theorem afterEnable_tinit : (afterEnable P s).tinit = s.tinit := by
  simp [afterEnable]

@[simp] theorem afterEnable_tbase : (afterEnable P s).tbase = s.tbase := by
  simp [afterEnable]

@[simp] theorem afterEnable_pmode : (afterEnable P s).pmode = s.pmode := by
  simp [afterEnable]

@[simp] theorem afterEnable_cmp : (afterEnable P s).cmp = s.cmp := by
  simp [afterEnable]

@[simp] theorem afterEnable_cons : (afterEnable P s).cons = s.cons := by
  simp [afterEnable]

@[simp] theorem afterEnable_freq : (afterEnable P s).freq = s.freq := by
  simp [afterEnable]

@[simp] theorem afterEnable_pwmen : (afterEnable P s).pwmen = s.pwmen := by
  simp [afterEnable]

@[simp] theorem afterEnable_response : (afterEnable P s).response = s.response := by
  simp [afterEnable]

@[simp] theorem afterEnable_responses : (afterEnable P s).responses = s.responses := by
  simp [afterEnable]

@[simp] theorem afterEnable_commands : (afterEnable P s).commands = s.commands := by
  simp [afterEnable]

@[simp] theorem afterEnable_draws : (afterEnable P s).draws = s.draws := by
  simp [afterEnable]

@[simp] theorem afterEnable_pinLvl_pwm : (afterEnable P s).pinLvl.pwm = s.pinLvl.pwm := by
  simp [afterEnable]

@[simp] theorem afterEnable_pinWritten_pwm : (afterEnable P s).pinWritten.pwm = s.pinWritten.pwm := by
  simp [afterEnable]

@[simp] theorem afterEnable_ls :
    (afterEnable P s).ls = 0#8 := by
  simp [afterEnable]

@[simp] theorem afterEnable_en :
    (afterEnable P s).en = true := by
  simp [afterEnable]

@[simp] theorem afterEnable_qen :
    (afterEnable P s).qen = true := by
  simp [afterEnable]

@[simp] theorem afterEnable_pinLvl_oe :
    (afterEnable P s).pinLvl.oe = P.oeActive := by
  simp [afterEnable]

@[simp] theorem afterEnable_pinWritten_oe :
    (afterEnable P s).pinWritten.oe = true := by
  simp [afterEnable]

@[simp] theorem afterEnable_pinDir :
    (afterEnable P s).pinDir = { s.pinDir with data := .output, clk := .output, latch := .output, oe := .output } := by
  simp [afterEnable]

theorem afterEnable_trace : (afterEnable P s).trace = s.trace ++ ([.cfg .data, .cfg .clk, .cfg .latch, .cfg .oe] ++
    (if s.hold then [] else txEvents 0#8) ++ [.write .oe P.oeActive]) := by
  simp [afterEnable, afterTransmission_trace]

/-- The state from which a construction builds its channel: the block enabled (42_motor_channel.md R90). -/
def constructionBase : State := if s.en then s else afterEnable P s

@[simp] theorem constructionBase_hold : (constructionBase P s).hold = s.hold := by
  unfold constructionBase; split <;> simp

@[simp] theorem constructionBase_tinit : (constructionBase P s).tinit = s.tinit := by
  unfold constructionBase; split <;> simp

@[simp] theorem constructionBase_tbase : (constructionBase P s).tbase = s.tbase := by
  unfold constructionBase; split <;> simp

@[simp] theorem constructionBase_pmode : (constructionBase P s).pmode = s.pmode := by
  unfold constructionBase; split <;> simp

@[simp] theorem constructionBase_cmp : (constructionBase P s).cmp = s.cmp := by
  unfold constructionBase; split <;> simp

@[simp] theorem constructionBase_cons : (constructionBase P s).cons = s.cons := by
  unfold constructionBase; split <;> simp

@[simp] theorem constructionBase_freq : (constructionBase P s).freq = s.freq := by
  unfold constructionBase; split <;> simp

@[simp] theorem constructionBase_pwmen : (constructionBase P s).pwmen = s.pwmen := by
  unfold constructionBase; split <;> simp

@[simp] theorem constructionBase_response : (constructionBase P s).response = s.response := by
  unfold constructionBase; split <;> simp

@[simp] theorem constructionBase_responses : (constructionBase P s).responses = s.responses := by
  unfold constructionBase; split <;> simp

@[simp] theorem constructionBase_commands : (constructionBase P s).commands = s.commands := by
  unfold constructionBase; split <;> simp

@[simp] theorem constructionBase_draws : (constructionBase P s).draws = s.draws := by
  unfold constructionBase; split <;> simp

@[simp] theorem constructionBase_pinDir_pwm : (constructionBase P s).pinDir.pwm = s.pinDir.pwm := by
  unfold constructionBase; split <;> simp

@[simp] theorem constructionBase_pinLvl_pwm : (constructionBase P s).pinLvl.pwm = s.pinLvl.pwm := by
  unfold constructionBase; split <;> simp

@[simp] theorem constructionBase_pinWritten_pwm : (constructionBase P s).pinWritten.pwm = s.pinWritten.pwm := by
  unfold constructionBase; split <;> simp

@[simp] theorem constructionBase_en : (constructionBase P s).en = true := by
  unfold constructionBase; split <;> simp_all

theorem constructionBase_enabled {s : State} (h : s.en = true) : constructionBase P s = s := by
  simp [constructionBase, h]

theorem constructionBase_fresh {s : State} (h : s.en = false) : constructionBase P s = afterEnable P s := by
  simp [constructionBase, h]

/-! ## Initialising a PWM pin -/

theorem initialisePwm_pmode (n : Channel) (f : Byte) (w : Bool) :
    (initialisePwm P n f w s).pmode = s.pmode.set n (if w then .pwm else .digital) := by
  cases w <;> simp [initialisePwm]

theorem initialisePwm_cmp (n : Channel) (f : Byte) (w : Bool) :
    (initialisePwm P n f w s).cmp = if w then s.cmp.set n 0#8 else s.cmp := by
  cases w <;> simp [initialisePwm]

theorem initialisePwm_pinDir (n : Channel) (f : Byte) (w : Bool) :
    (initialisePwm P n f w s).pinDir = if w then s.pinDir else s.pinDir.set (.pwm n) .output := by
  cases w <;> simp [initialisePwm]

/-- After a base is programmed or left alone, channel n's timer is initialised and the others are as before
(41_timer_backend.md R81, R82). -/
theorem timerInitialised_programBase (n : Channel) (f : Byte) (k : Timer) :
    timerInitialised k (programBase P n f s) = (decide (k = channelTimer P n) || timerInitialised k s) := by
  unfold programBase
  split
  · next h => simp at h; by_cases hk : k = channelTimer P n <;> simp [hk, h]
  · exact timerInitialised_set _ _ (timerBaseCfg (channelTimer P n) f s)

theorem timerInitialised_initialisePwm (n : Channel) (f : Byte) (w : Bool) (k : Timer) :
    timerInitialised k (initialisePwm P n f w s) = ((w && decide (k = channelTimer P n)) || timerInitialised k s) := by
  cases w
  · rfl
  · exact timerInitialised_programBase P s n f k

/-- No other timer's base is touched (41_timer_backend.md R81). -/
theorem timerLookup_initialisePwm (n : Channel) (f : Byte) (w : Bool) {k : Timer} (hk : k ≠ channelTimer P n) :
    timerLookup k (initialisePwm P n f w s).tbase = timerLookup k s.tbase := by
  cases w
  · rfl
  · show timerLookup k (programBase P n f s).tbase = _
    unfold programBase
    split
    · rfl
    · simp [timerLookup_put_other _ _ hk]

end Sys2Proof.Machine
end

