-- ==== Sys2Proof/Laws/Exec.lean ====
section
/-!
SUPPORT. What each command can do when it completes, and what a step can do: the case analysis every rule over all commands starts
from.
-/

namespace Sys2Proof.Machine

theorem next_eq_next {s t : State} : (Host.Outcome.next s : Result) = .next t ↔ t = s :=
  ⟨fun h => by cases h; rfl, fun h => h ▸ rfl⟩

theorem exec_enable_next {s t : State} : exec .enable s = .next t ↔ s.en = false ∧ t = afterEnable Config.params s :=
  enabling_eq_next

theorem exec_updateBits_next {m v : Byte} {s t : State} : exec (.updateBits m v) s = .next t ↔ t = maskedUpdate m v s :=
  ⟨fun h => by cases h; rfl, fun h => h ▸ rfl⟩

theorem exec_transmit_next {s t : State} :
    exec .transmit s = .next t ↔ (s.hold = false → serialReady s) ∧ t = afterTransmission s :=
  transmission_eq_next

theorem exec_hold_next {s t : State} : exec .hold s = .next t ↔ t = setHold true s :=
  ⟨fun h => by cases h; rfl, fun h => h ▸ rfl⟩

theorem exec_release_next {s t : State} : exec .release s = .next t ↔ serialReady s ∧ t = afterBurst (setHold false s) := by
  have hb : burst Config.params (setHold false s) = .next t ↔ _ := burst_eq_next
  rw [← transmission_free Config.params rfl] at hb
  exact hb

theorem exec_getState_next {s t : State} : exec .getState s = .next t ↔ t = respond s.ls s :=
  ⟨fun h => by cases h; rfl, fun h => h ▸ rfl⟩

theorem exec_setState_next {v : Byte} {s t : State} :
    exec (.setState v) s = .next t ↔ (s.hold = false → serialReady s) ∧ t = afterTransmission (setLatchState v s) :=
  transmission_eq_next

theorem exec_pwmInit_next {ch freq : Byte} {pwm : Bool} {s t : State} :
    exec (.pwmInit ch freq pwm) s = .next t ↔
      (channelOf ch = none ∧ t = s) ∨ ∃ n, channelOf ch = some n ∧ t = initialisePwm Config.params n freq pwm s := by
  cases hc : channelOf ch <;> simp [exec, execPwmInit, hc, next_eq_next, -Host.Outcome.next.injEq]

theorem exec_pwmSet_next {ch duty : Byte} {s t : State} :
    exec (.pwmSet ch duty) s = .next t ↔
      (channelOf ch = none ∧ t = s) ∨ ∃ n, channelOf ch = some n ∧ writeDuty Config.params n duty s = .next t := by
  cases hc : channelOf ch <;> simp [exec, execPwmSet, hc, next_eq_next, -Host.Outcome.next.injEq]

theorem exec_construct_next {ch freq : Byte} {pwm : Bool} {s t : State} :
    exec (.construct ch freq pwm) s = .next t ↔
      (channelOf ch = none ∧ t = constructionBase Config.params s) ∨
      ∃ n, channelOf ch = some n ∧ s.cons.get n = false ∧
        constructChannel Config.params n freq pwm (constructionBase Config.params s) = .next t := by
  cases hc : channelOf ch with
  | none => simp [exec, execConstruct, construction, hc, lazyEnable_eq_next, constructionBase]
  | some n =>
    cases hk : s.cons.get n <;>
      simp [exec, execConstruct, construction, hc, hk, andThen_eq_next, lazyEnable_eq_next, constructionBase]

theorem exec_setDir_next {ch : Byte} {dir : Direction} {s t : State} :
    exec (.setDir ch dir) s = .next t ↔
      (channelOf ch = none ∧ t = s) ∨
      ∃ n, channelOf ch = some n ∧ s.cons.get n = true ∧ (s.hold = false → serialReady s) ∧
        t = afterTransmission (maskedUpdate (channelMask Config.params n) (directionValue Config.params n dir) s) := by
  cases hc : channelOf ch with
  | none => simp [exec, execSetDir, direction, hc, next_eq_next, -Host.Outcome.next.injEq]
  | some n =>
    cases hk : s.cons.get n with
    | false => simp [exec, execSetDir, direction, hc, hk]
    | true =>
      have h := transmission_eq_next (P := Config.params) (t := t)
        (s := maskedUpdate (channelMask Config.params n) (directionValue Config.params n dir) s)
      simpa [exec, execSetDir, direction, hc, hk, serialReady] using h

theorem exec_setSpeed_next {ch duty : Byte} {s t : State} :
    exec (.setSpeed ch duty) s = .next t ↔
      (channelOf ch = none ∧ t = s) ∨
      ∃ n, channelOf ch = some n ∧ s.cons.get n = true ∧ writeDuty Config.params n duty s = .next t := by
  cases hc : channelOf ch with
  | none => simp [exec, execSetSpeed, speed, hc, next_eq_next, -Host.Outcome.next.injEq]
  | some n => cases hk : s.cons.get n <;> simp [exec, execSetSpeed, speed, hc, hk]

/-- What a completed command leaves, one case for each way a command can complete: from state `s` the command leaves `t`. -/
inductive Completes : Instr → State → State → Prop
  | enable {s : State} (fresh : s.en = false) : Completes .enable s (afterEnable Config.params s)
  | updateBits {s : State} {m v : Byte} : Completes (.updateBits m v) s (maskedUpdate m v s)
  | transmit {s : State} (ready : s.hold = false → serialReady s) : Completes .transmit s (afterTransmission s)
  | hold {s : State} : Completes .hold s (setHold true s)
  | release {s : State} (ready : serialReady s) : Completes .release s (afterBurst (setHold false s))
  | getState {s : State} : Completes .getState s (respond s.ls s)
  | setState {s : State} {v : Byte} (ready : s.hold = false → serialReady s) :
      Completes (.setState v) s (afterTransmission (setLatchState v s))
  | pwmInit {s : State} {n : Channel} {freq : Byte} {pwm : Bool} :
      Completes (.pwmInit (channelNumber n) freq pwm) s (initialisePwm Config.params n freq pwm s)
  | pwmInitInvalid {s : State} {ch freq : Byte} {pwm : Bool} (invalid : channelOf ch = none) : Completes (.pwmInit ch freq pwm) s s
  | pwmSetHardware {s : State} {n : Channel} {duty : Byte} (mode : s.pmode.get n = .pwm) :
      Completes (.pwmSet (channelNumber n) duty) s (cmpWrite n duty s)
  | pwmSetFallback {s : State} {n : Channel} {duty : Byte} (mode : s.pmode.get n = .digital)
      (pin : s.pinDir.get (.pwm n) = .output) : Completes (.pwmSet (channelNumber n) duty) s
        (record (.write (.pwm n) (dutyLevel duty)) (setLevel (.pwm n) (dutyLevel duty) s))
  | pwmSetInvalid {s : State} {ch duty : Byte} (invalid : channelOf ch = none) : Completes (.pwmSet ch duty) s s
  | construct {s : State} {n : Channel} {freq : Byte} {pwm : Bool} (first : s.cons.get n = false)
      (ready : s.hold = false → serialReady (constructionBase Config.params s)) :
      Completes (.construct (channelNumber n) freq pwm) s (recordChannel n freq pwm (initialisePwm Config.params n freq pwm
        (afterTransmission (maskedUpdate (channelMask Config.params n) 0#8 (constructionBase Config.params s)))))
  | constructInvalid {s : State} {ch freq : Byte} {pwm : Bool} (invalid : channelOf ch = none) :
      Completes (.construct ch freq pwm) s (constructionBase Config.params s)
  | setDir {s : State} {n : Channel} {dir : Direction} (built : s.cons.get n = true) (ready : s.hold = false → serialReady s) :
      Completes (.setDir (channelNumber n) dir) s
        (afterTransmission (maskedUpdate (channelMask Config.params n) (directionValue Config.params n dir) s))
  | setDirInvalid {s : State} {ch : Byte} {dir : Direction} (invalid : channelOf ch = none) : Completes (.setDir ch dir) s s
  | setSpeedHardware {s : State} {n : Channel} {duty : Byte} (built : s.cons.get n = true) (mode : s.pmode.get n = .pwm) :
      Completes (.setSpeed (channelNumber n) duty) s (cmpWrite n duty s)
  | setSpeedFallback {s : State} {n : Channel} {duty : Byte} (built : s.cons.get n = true) (mode : s.pmode.get n = .digital)
      (pin : s.pinDir.get (.pwm n) = .output) : Completes (.setSpeed (channelNumber n) duty) s
        (record (.write (.pwm n) (dutyLevel duty)) (setLevel (.pwm n) (dutyLevel duty) s))
  | setSpeedInvalid {s : State} {ch duty : Byte} (invalid : channelOf ch = none) : Completes (.setSpeed ch duty) s s

/-- A command that answers a next state completed in one of the listed ways. -/
theorem exec_completes {i : Instr} {s t : State} (h : exec i s = .next t) : Completes i s t := by
  cases i with
  | enable => obtain ⟨he, rfl⟩ := exec_enable_next.mp h; exact .enable he
  | updateBits m v => obtain rfl := exec_updateBits_next.mp h; exact .updateBits
  | transmit => obtain ⟨hr, rfl⟩ := exec_transmit_next.mp h; exact .transmit hr
  | hold => obtain rfl := exec_hold_next.mp h; exact .hold
  | release => obtain ⟨hr, rfl⟩ := exec_release_next.mp h; exact .release hr
  | getState => obtain rfl := exec_getState_next.mp h; exact .getState
  | setState v => obtain ⟨hr, rfl⟩ := exec_setState_next.mp h; exact .setState hr
  | pwmInit ch freq pwm =>
    rcases exec_pwmInit_next.mp h with ⟨hc, rfl⟩ | ⟨n, hc, rfl⟩
    · exact .pwmInitInvalid hc
    · rw [channelOf_eq_some hc]; exact .pwmInit
  | pwmSet ch duty =>
    rcases exec_pwmSet_next.mp h with ⟨hc, rfl⟩ | ⟨n, hc, hw⟩
    · exact .pwmSetInvalid hc
    · rw [channelOf_eq_some hc]
      rcases writeDuty_eq_next.mp hw with ⟨hp, rfl⟩ | ⟨hp, ho, rfl⟩
      · exact .pwmSetHardware hp
      · exact .pwmSetFallback hp ho
  | construct ch freq pwm =>
    rcases exec_construct_next.mp h with ⟨hc, rfl⟩ | ⟨n, hc, hk, hw⟩
    · exact .constructInvalid hc
    · rw [channelOf_eq_some hc]
      obtain ⟨hr, rfl⟩ := constructChannel_eq_next.mp hw
      exact .construct hk (by simpa using hr)
  | setDir ch dir =>
    rcases exec_setDir_next.mp h with ⟨hc, rfl⟩ | ⟨n, hc, hk, hr, rfl⟩
    · exact .setDirInvalid hc
    · rw [channelOf_eq_some hc]; exact .setDir hk hr
  | setSpeed ch duty =>
    rcases exec_setSpeed_next.mp h with ⟨hc, rfl⟩ | ⟨n, hc, hk, hw⟩
    · exact .setSpeedInvalid hc
    · rw [channelOf_eq_some hc]
      rcases writeDuty_eq_next.mp hw with ⟨hp, rfl⟩ | ⟨hp, ho, rfl⟩
      · exact .setSpeedHardware hk hp
      · exact .setSpeedFallback hk hp ho

/-- Everything a step can do when it completes (30_encoding.md R45, R53): nothing, or one decoded command. -/
theorem step_next {s t : State} (h : step s = .next t) :
    (s.commands = [] ∧ t = s) ∨
    ∃ w rest i, s.commands = w :: rest ∧ decode w = .legal i ∧
      Completes i { s with commands := rest, response := none } t := by
  unfold step at h
  cases hc : s.commands with
  | nil => exact .inl ⟨rfl, by simpa [issue, hc, next_eq_next, -Host.Outcome.next.injEq] using h⟩
  | cons w rest =>
    simp only [issue, hc] at h
    cases hd : decode w with
    | legal i => rw [hd] at h; exact .inr ⟨w, rest, i, rfl, hd, exec_completes h⟩
    | illegal why => rw [hd] at h; cases h

end Sys2Proof.Machine
end

