-- ==== Sys2Proof/Tests/Slice0.lean ====
section
/-!
SUPPORT. The model's own tests: the well-formedness smoke test, the decoding of words written out from 30_encoding.md R52, one-step
vectors of 95_test_vectors.md, and a witness for each statement that has hypotheses.
-/

namespace Sys2Proof.Tests

open Sys2Proof.Machine

/-! ## Well-formedness: one ill-formed word for each check -/

/-- 95_test_vectors.md 2.1, legal words. -/
theorem test_wellformed_words_accepted :
    [0x01000000#32, 0x02FFFF00#32, 0x03000000#32, 0x04000000#32, 0x05000000#32, 0x06000000#32, 0x07A50000#32, 0x08010401#32,
      0x09011100#32, 0x0A090101#32, 0x0BFF0100#32, 0x0C006300#32].all wellFormedWord = true := by decide

/-- 95_test_vectors.md 2.1: opcodes that are not assigned. -/
theorem test_unassigned_opcodes_illformed :
    [0x00000000#32, 0xFFFFFFFF#32, 0x0D000000#32].any wellFormedWord = false := by decide

/-- 95_test_vectors.md 2.1: a nonzero bit in an unused field. -/
theorem test_unused_fields_illformed :
    [0x04000001#32, 0x01000100#32, 0x020F0201#32, 0x07A50100#32, 0x08010402#32, 0x0A010303#32, 0x0B010400#32, 0x0B010101#32,
      0x0C01C801#32].any wellFormedWord = false := by decide

/-- 95_test_vectors.md 2.1: the reserved direction, alone of all checks, refuses 0x0B010300. -/
theorem test_reserved_direction_illformed :
    wellFormedWord 0x0B010300#32 = false ∧ opcodeRows.any (fun r => r.spells 0x0B010300#32) = true := by decide

/-! ## Decoding: each constructor's word, written out from the opcode map -/

theorem test_decode_enable : decode 0x01000000#32 = .legal .enable := by decide
theorem test_decode_updateBits : decode 0x020F0200#32 = .legal (.updateBits 0x0F#8 0x02#8) := by decide
theorem test_decode_transmit : decode 0x03000000#32 = .legal .transmit := by decide
theorem test_decode_hold : decode 0x04000000#32 = .legal .hold := by decide
theorem test_decode_release : decode 0x05000000#32 = .legal .release := by decide
theorem test_decode_getState : decode 0x06000000#32 = .legal .getState := by decide
theorem test_decode_setState : decode 0x07A50000#32 = .legal (.setState 0xA5#8) := by decide
theorem test_decode_pwmInit : decode 0x08010401#32 = .legal (.pwmInit 1#8 4#8 true) := by decide
theorem test_decode_pwmInit_digital : decode 0x08030000#32 = .legal (.pwmInit 3#8 0#8 false) := by decide
theorem test_decode_pwmSet : decode 0x09011100#32 = .legal (.pwmSet 1#8 17#8) := by decide
theorem test_decode_construct : decode 0x0A010301#32 = .legal (.construct 1#8 3#8 true) := by decide
theorem test_decode_construct_invalid_channel : decode 0x0A090101#32 = .legal (.construct 9#8 1#8 true) := by decide
theorem test_decode_setDir_release : decode 0x0B010000#32 = .legal (.setDir 1#8 .release) := by decide
theorem test_decode_setDir_forward : decode 0x0BFF0100#32 = .legal (.setDir 255#8 .forward) := by decide
theorem test_decode_setDir_backward : decode 0x0B020200#32 = .legal (.setDir 2#8 .backward) := by decide
theorem test_decode_setSpeed : decode 0x0C01C800#32 = .legal (.setSpeed 1#8 200#8) := by decide

theorem test_decode_illegal :
    [0x00000000#32, 0xFFFFFFFF#32, 0x0D000000#32].map decode = List.replicate 3 (.illegal .unassignedOpcode) ∧
    [0x04000001#32, 0x08010402#32, 0x0A010303#32, 0x0B010400#32, 0x0B010101#32].map decode =
      List.replicate 5 (.illegal .unusedFieldNonzero) ∧
    [0x0B010300#32, 0x0B070300#32].map decode = List.replicate 2 (.illegal .reservedDirection) := by decide

/-- The table's numbering: 0x0A010301 as `CONSTRUCT 1, 3, PWM`, and a word of zeros above the bits given. -/
theorem test_decodeTableWord :
    decodeTableWord 32 0x0A010301 = some (.construct 1#8 3#8 true) ∧ decodeTableWord 32 0 = none ∧
    decodeTableWord 16 0xFFFF0001 = none := by decide

/-! ## The parameter sets and start states of the vectors -/

/-- `P_SEQ` with `F_SPLIT` (95_test_vectors.md 0). -/
def pSeq : Params := {}

/-- `P_AF` with `F_SPLIT` (95_test_vectors.md 0). -/
def pAf : Params where
  bitA := fun n => match n with | .c1 => 2 | .c2 => 1 | .c3 => 5 | .c4 => 0
  bitB := fun n => match n with | .c1 => 3 | .c2 => 4 | .c3 => 7 | .c4 => 6
  bits_distinct := by decide

/-- `P_SEQ` with `F_SHARED` (95_test_vectors.md 0): family 0 has the one timer `T0`. -/
def fShared : Params where
  timerOf := fun f _ => f

/-- `SHARED = {}` under `F_SPLIT`, and `SHARED = {T0}` under `F_SHARED` (95_test_vectors.md 0). -/
theorem test_shared_timers :
    [0, 1, 2, 3, 4].map (timerShared pSeq) = [false, false, false, false, false] ∧
    [0, 1, 2, 3, 4].map (timerShared fShared) = [true, false, false, false, false] ∧
    channelTimers (pSeq.timerOf pSeq.family) = [1, 2, 3, 4] := by decide

/-- A block not enabled, with the `⊥` registers at arbitrary values. -/
def off : State where
  ls := 0x5A#8
  hold := false
  en := false
  tinit := []
  tbase := []
  pmode := ⟨.unconfigured, .unconfigured, .unconfigured, .unconfigured⟩
  cmp := ⟨9#8, 9#8, 9#8, 9#8⟩
  cons := ⟨false, false, false, false⟩
  freq := ⟨9#8, 9#8, 9#8, 9#8⟩
  pwmen := ⟨false, false, false, false⟩
  pinDir := ⟨.unconfigured, .unconfigured, .unconfigured, .unconfigured,
    ⟨.unconfigured, .unconfigured, .unconfigured, .unconfigured⟩⟩
  pinLvl := ⟨true, false, true, true, ⟨true, true, true, true⟩⟩
  pinWritten := ⟨false, false, false, false, ⟨false, false, false, false⟩⟩
  sr := 0x99#8
  q := 0x77#8
  qen := false
  trace := []
  response := some 0xEE#8
  responses := []
  commands := []
  draws := 0

/-- A block enabled, the chip showing `ls`; channel 1 constructed for hardware PWM, channel 3 for fallback, 2 and 4 not. -/
def on (P : Params) (ls : Byte) : State :=
  { off with
    ls := ls
    en := true
    tinit := [(channelTimer P .c1, true)]
    tbase := [(channelTimer P .c1, 3#8)]
    pmode := ⟨.pwm, .unconfigured, .digital, .unconfigured⟩
    cons := ⟨true, false, true, false⟩
    pinDir := ⟨.output, .output, .output, .output, ⟨.unconfigured, .unconfigured, .output, .unconfigured⟩⟩
    pinLvl := ⟨ls.getLsbD 0, true, true, P.oeActive, ⟨true, true, true, true⟩⟩
    pinWritten := ⟨true, true, true, true, ⟨false, false, false, false⟩⟩
    sr := ls
    q := ls
    qen := true
    trace := [.cfg .data, .cfg .clk, .cfg .latch, .cfg .oe] ++ txEvents ls ++
      [.write .oe P.oeActive, .timerBase (channelTimer P .c1) 3#8, .chanPwm .c1, .cmp .c1 0#8, .cfg (.pwm .c3)] }

/-- One part of the next state of a result, if it has one. -/
def after {α : Type} (r : Result) (f : State → α) : Option α := (nextOf r).map f

/-- The events a result appends to a history of the given length. -/
def appended (n : Nat) (r : Result) : Option (List Event) := after r fun t => t.trace.drop n

/-! ## One-step vectors -/

/-- 2.6 E1: 31 events, `LS = Q = 0`, `DATA=0`, `CLK=1`, `LATCH=1`, outputs driven. -/
theorem test_enable_E1 :
    appended 0 (enabling pSeq off) =
      some ([.cfg .data, .cfg .clk, .cfg .latch, .cfg .oe] ++ txEvents 0x00#8 ++ [.write .oe false]) ∧
    after (enabling pSeq off) (fun t => (t.en, t.ls, t.q, t.qen)) = some (true, 0x00#8, 0x00#8, true) ∧
    after (enabling pSeq off) (fun t => (t.pinLvl.data, t.pinLvl.clk, t.pinLvl.latch, t.pinLvl.oe)) =
      some (false, true, true, false) := by decide

/-- 2.6 E2 and E3: held, 5 events and no burst; a second `ENABLE` refused. -/
theorem test_enable_E2_E3 :
    appended 0 (enabling pSeq { off with hold := true }) =
      some [.cfg .data, .cfg .clk, .cfg .latch, .cfg .oe, .write .oe false] ∧
    after (enabling pSeq { off with hold := true }) (fun t => (t.en, t.hold, t.ls, t.q, t.pinLvl.data)) =
      some (true, true, 0x00#8, 0x77#8, true) ∧
    refusalOf (exec .enable (on pSeq 0#8)) = some .enableTwice := by decide

/-- 2.2 U-1. -/
theorem test_updateBits_U1 : after (exec (.updateBits 0x0F#8 0x02#8) (on pSeq 0xA5#8)) (·.ls) = some 0xA2#8 := by decide

/-- 2.2 U-7: bits of the value outside the mask are ORed in. -/
theorem test_updateBits_U7 : after (exec (.updateBits 0x03#8 0x0C#8) (on pSeq 0xF0#8)) (·.ls) = some 0xFC#8 := by decide

/-- 2.3 T3, event by event. -/
theorem test_transmit_T3 :
    appended 35 (transmission pSeq (on pSeq 0xA2#8)) = some
      [.write .latch false,
       .write .clk false, .write .data true, .write .clk true, .write .clk false, .write .data false, .write .clk true,
       .write .clk false, .write .data true, .write .clk true, .write .clk false, .write .data false, .write .clk true,
       .write .clk false, .write .data false, .write .clk true, .write .clk false, .write .data false, .write .clk true,
       .write .clk false, .write .data true, .write .clk true, .write .clk false, .write .data false, .write .clk true,
       .write .latch true] ∧
    after (transmission pSeq { on pSeq 0xA2#8 with sr := 0x0F#8, q := 0x0F#8 }) (fun t => (t.sr, t.q, t.pinLvl.data)) =
      some (0xA2#8, 0xA2#8, false) := by decide

/-- 2.3 T6 and T7: held it completes with nothing, even with `EN = 0`; else unconfigured lines refuse it. -/
theorem test_transmit_T6_T7 :
    nextOf (exec .transmit { off with hold := true }) = some { off with hold := true } ∧
    refusalOf (exec .transmit off) = some (.pinNotConfigured .latch) := by decide

/-- 2.4 H2: there is no count. -/
theorem test_hold_H2 : nextOf (exec .hold { on pSeq 0x3C#8 with hold := true }) = some { on pSeq 0x3C#8 with hold := true } := by
  decide

/-- 2.4 H3: a release with no hold before still sends one burst. -/
theorem test_release_H3 : appended 35 (exec .release (on pSeq 0x3C#8)) = some (txEvents 0x3C#8) := by decide

/-- 3 P3, line 7, and F2: a release clears the flag and flushes; unconfigured lines refuse it. -/
theorem test_release_P3_F2 :
    after (exec .release { on pSeq 0x90#8 with hold := true, q := 0x00#8 }) (fun t => (t.hold, t.q)) = some (false, 0x90#8) ∧
    refusalOf (exec .release off) = some (.pinNotConfigured .latch) := by decide

/-- 2.5 G1. -/
theorem test_getState_G1 :
    after (exec .getState (on pSeq 0xA5#8)) (fun t => (t.response, t.ls, t.trace.length)) = some (some 0xA5#8, 0xA5#8, 35) := by
  decide

/-- 2.5 S1 and S2: not held one burst; held no event, the chip as before. -/
theorem test_setState_S1_S2 :
    appended 35 (exec (.setState 0xA5#8) (on pSeq 0x00#8)) = some (txEvents 0xA5#8) ∧
    after (exec (.setState 0x0F#8) { on pSeq 0xA1#8 with hold := true }) (fun t => (t.ls, t.q, t.trace.length)) =
      some (0x0F#8, 0xA1#8, 35) := by decide

/-- 2.5 S4. -/
theorem test_setState_S4 : refusalOf (exec (.setState 0x01#8) off) = some (.pinNotConfigured .latch) := by decide

/-- 2.7 I1 and I2: an unshared timer is programmed on every initialisation. -/
theorem test_pwmInit_I1_I2 :
    (initialisePwm pSeq .c1 4#8 true off).trace = [.timerBase 1 4#8, .chanPwm .c1, .cmp .c1 0#8] ∧
    (initialisePwm pSeq .c1 4#8 true off).pmode.c1 = .pwm ∧ (initialisePwm pSeq .c1 4#8 true off).cmp.c1 = 0#8 ∧
    timerInitialised 1 (initialisePwm pSeq .c1 4#8 true off) = true ∧
    timerBase 1 (initialisePwm pSeq .c1 6#8 true (initialisePwm pSeq .c1 4#8 true off)) = 6#8 := by decide

/-- 2.7 I4 and I5: the first requester of a shared timer wins; the fallback touches no timer and no level. -/
theorem test_pwmInit_I4_I5 :
    (initialisePwm fShared .c2 7#8 true (initialisePwm fShared .c1 2#8 true off)).trace =
      [.timerBase 0 2#8, .chanPwm .c1, .cmp .c1 0#8, .chanPwm .c2, .cmp .c2 0#8] ∧
    timerBase 0 (initialisePwm fShared .c2 7#8 true (initialisePwm fShared .c1 2#8 true off)) = 2#8 ∧
    nextOf (exec (.pwmInit 3#8 9#8 false) off) = some { off with
      pinDir := off.pinDir.set (.pwm .c3) .output, pmode := off.pmode.set .c3 .digital, trace := [.cfg (.pwm .c3)] } ∧
    nextOf (exec (.pwmInit 0#8 1#8 true) off) = some off := by decide

/-- 2.7 D3v and D5v: the duty is written unchanged. -/
theorem test_pwmSet_hardware :
    appended 35 (exec (.pwmSet 1#8 128#8) (on pSeq 0#8)) = some [.cmp .c1 128#8] ∧
    after (exec (.pwmSet 1#8 255#8) (on pSeq 0#8)) (·.cmp.c1) = some 255#8 := by decide

/-- 2.7 D7v, D8v, D11v and D12v: the threshold, an unconfigured channel, an invalid one. -/
theorem test_pwmSet_fallback :
    appended 35 (exec (.pwmSet 3#8 127#8) (on pSeq 0#8)) = some [.write (.pwm .c3) false] ∧
    appended 35 (exec (.pwmSet 3#8 128#8) (on pSeq 0#8)) = some [.write (.pwm .c3) true] ∧
    refusalOf (exec (.pwmSet 1#8 5#8) off) = some .channelNotConfigured ∧
    nextOf (exec (.pwmSet 5#8 17#8) off) = some off := by decide

/-- 2.8 K1: sixty events, and the channel's record. -/
theorem test_construct_K1 :
    appended 0 (construction pSeq 1#8 3#8 true off) = some
      ([.cfg .data, .cfg .clk, .cfg .latch, .cfg .oe] ++ txEvents 0#8 ++ [.write .oe false] ++ txEvents 0#8 ++
        [.timerBase 1 3#8, .chanPwm .c1, .cmp .c1 0#8]) ∧
    after (construction pSeq 1#8 3#8 true off) (fun t => (t.en, t.ls, t.q)) = some (true, 0x00#8, 0x00#8) ∧
    after (construction pSeq 1#8 3#8 true off) (fun t => (t.cons.c1, t.freq.c1, t.pwmen.c1, t.pmode.c1)) =
      some (true, 3#8, true, .pwm) := by decide

/-- 2.8 K8, K3 and K6: only channel 2's pair is cleared; a second construction refused; an invalid one of an enabled block nothing. -/
theorem test_construct_K8_K3_K6 :
    appended 35 (construction pSeq 2#8 0#8 false (on pSeq 0xFF#8)) = some (txEvents 0xF3#8 ++ [.cfg (.pwm .c2)]) ∧
    after (construction pSeq 2#8 0#8 false (on pSeq 0xFF#8)) (·.ls) = some 0xF3#8 ∧
    refusalOf (exec (.construct 1#8 3#8 true) (on pSeq 0#8)) = some .constructTwice ∧
    nextOf (exec (.construct 0#8 0#8 false) (on pSeq 0#8)) = some (on pSeq 0#8) := by decide

/-- 2.9, `P_SEQ` channel 1 and `P_AF` channel 3, from FF: forward, backward, release. -/
theorem test_setDir_tables :
    [Direction.forward, .backward, .release].map (fun d => after (direction pSeq 1#8 d (on pSeq 0xFF#8)) (·.ls)) =
      [some 0xFD#8, some 0xFE#8, some 0xFC#8] ∧
    [Direction.forward, .backward, .release].map (fun d => after (direction pAf 3#8 d (on pAf 0xFF#8)) (·.ls)) =
      [some 0x7F#8, some 0xDF#8, some 0x5F#8] := by decide

/-- 2.9 X1, X3 and X4: a burst although nothing changes; an unconstructed channel refused; an invalid one nothing. -/
theorem test_setDir_X1_X3_X4 :
    appended 35 (direction pSeq 1#8 .forward (on pSeq 0x01#8)) = some (txEvents 0x01#8) ∧
    refusalOf (exec (.setDir 2#8 .forward) (on pSeq 0#8)) = some .channelNotConstructed ∧
    nextOf (exec (.setDir 7#8 .forward) (on pSeq 0#8)) = some (on pSeq 0#8) := by decide

/-- 2.10: hardware PWM, held, and the fallback. -/
theorem test_setSpeed_modes :
    appended 35 (exec (.setSpeed 1#8 200#8) { on pSeq 0#8 with hold := true }) = some [.cmp .c1 200#8] ∧
    appended 35 (exec (.setSpeed 3#8 128#8) (on pSeq 0#8)) = some [.write (.pwm .c3) true] := by decide

/-- 2.10 and 3 P4, line 5: an unconstructed channel refused, an invalid one nothing. -/
theorem test_setSpeed_refused_and_invalid :
    refusalOf (exec (.setSpeed 2#8 1#8) (on pSeq 0#8)) = some .channelNotConstructed ∧
    nextOf (exec (.setSpeed 0#8 99#8) (on pSeq 0#8)) = some (on pSeq 0#8) := by decide

/-- 3 F7: an illegal word is refused at issue. -/
theorem test_step_illegal : refusalOf (step (off.withFetchWord 32 0)) = some .illegalCommand := by decide

/-- 3 P6, line 3, as one step: the word is consumed and the value responded. -/
theorem test_step_getState :
    after (step ((on pSeq 0x02#8).withFetchWord 32 0x06000000)) (fun t => (t.response, t.commands)) = some (some 0x02#8, []) := by
  decide

/-- 3 F8: a family outside `SUPPORTED`. -/
theorem test_configure : configure pSeq.toPlatform 9 = .refused .unsupportedFamily := by
  simp [configure, pSeq]

/-! ## Witnesses: a state and operands that meet the hypotheses of each statement -/

/-- The block enabled, coherent under the parameters the machine runs at. -/
def live : State := on Config.params 0x00#8

theorem witness_live_ready : serialReady live := ⟨rfl, rfl, rfl⟩

theorem witness_live_coherent : Coherent Config.params live where
  enabled := fun _ => ⟨rfl, rfl, rfl, rfl, rfl, rfl⟩
  driven := fun _ => by simp [live, on]
  writtenOutput := fun p h => by
    cases p with
    | pwm n => cases n <;> cases h
    | _ => rfl
  constructed := fun n h => by cases n <;> first | exact absurd h (by decide) | exact ⟨rfl, fun e => by cases e⟩
  fallbackPin := fun n h => by cases n <;> first | rfl | cases h
  pwmTimer := fun n h => by
    cases n <;> first | exact absurd h (by decide) | simp [live, on, timerInitialised, timerLookup]
  programmed := fun t => by by_cases h : channelTimer Config.params .c1 = t <;> simp [live, on, timerInitialised, timerLookup, h]

theorem witness_off_coherent : Coherent Config.params off where
  enabled := fun h => by cases h
  driven := fun h => by cases h
  writtenOutput := fun p h => by
    cases p with
    | pwm n => cases n <;> cases h
    | _ => cases h
  constructed := fun n h => by cases n <;> cases h
  fallbackPin := fun n h => by cases n <;> cases h
  pwmTimer := fun n h => by cases n <;> cases h
  programmed := fun t => by simp [off, timerInitialised, timerLookup]

theorem witness_StepRunsDecodedCommand :
    off.commands = [] ∧ (off.withFetchWord 32 0x04000000).commands = 0x04000000#32 :: [] ∧
    decode 0x04000000#32 = .legal .hold ∧ decode 0x00000000#32 = .illegal .unassignedOpcode := by decide

theorem witness_OpcodeRowsDisjoint :
    (⟨"SETSTATE", 0x07000000#32, 0xFF00FFFF#32⟩ : OpcodeRow) ∈ opcodeRows ∧
    (⟨"SETSTATE", 0x07000000#32, 0xFF00FFFF#32⟩ : OpcodeRow).spells 0x07A50000#32 = true := by decide

theorem witness_OnlySupportedFamilyConfigured : 2 ∈ pSeq.supported ∧ 3 ∉ pSeq.supported := by decide

theorem witness_EnableConfiguresAndClears : off.en = false ∧ off.hold = false := by decide

theorem witness_EnableHeldSendsNoBurst :
    ({ off with hold := true } : State).en = false ∧ ({ off with hold := true } : State).hold = true := by decide

/-- The hypotheses of the statements on a transmission: held; ready and not held; not ready and not held. -/
theorem witness_transmission_hypotheses :
    ({ off with hold := true } : State).hold = true ∧ (live.hold = false ∧ serialReady live) ∧
    (off.hold = false ∧ ¬ serialReady off) := by decide

theorem witness_PwmInitProgramsTimer :
    timerShared Config.params (channelTimer Config.params .c4) = true →
      timerInitialised (channelTimer Config.params .c4) off = false := fun _ => rfl

theorem witness_SharedTimerFirstRequesterWins :
    timerShared fShared (channelTimer fShared .c2) = true ∧ channelTimer fShared .c1 = channelTimer fShared .c2 ∧
    timerInitialised (channelTimer fShared .c2) off = false ∧
    timerInitialised (channelTimer fShared .c2) (initialisePwm fShared .c1 2#8 true off) = true := by decide

theorem witness_SharedTimersAreThoseOfSeveralChannels :
    0 ∈ fShared.supported ∧ 1 ∈ fShared.supported ∧ (0 : Family) ≠ 1 ∧ Channel.c1 ≠ Channel.c2 ∧
    fShared.timerOf 0 .c1 = fShared.timerOf 0 .c2 := by decide

theorem witness_CommonTimerKeepsItsBase :
    Channel.c2 ≠ Channel.c1 ∧ channelTimer fShared .c2 = channelTimer fShared .c1 ∧
    timerInitialised (channelTimer fShared .c2) (initialisePwm fShared .c1 2#8 true off) = true := by decide

theorem witness_duty_hypotheses :
    (live.pmode.get .c1 = .pwm ∧ live.cons.get .c1 = true) ∧
    (live.pmode.get .c3 = .digital ∧ live.pinDir.get (.pwm .c3) = .output ∧ live.cons.get .c3 = true) := by decide

theorem witness_DutyLawIsLinear : (127#8 : Byte).toNat < (128#8 : Byte).toNat := by decide

theorem witness_ConstructBuildsChannel :
    live.cons.get .c2 = false ∧ (live.en = true → live.hold = false → serialReady live) := by decide

theorem witness_FirstConstructionEnables :
    off.cons.get .c4 = false ∧ off.en = false ∧ off.hold = false ∧
    (timerShared Config.params (channelTimer Config.params .c4) = true →
      timerInitialised (channelTimer Config.params .c4) off = false) := ⟨rfl, rfl, rfl, fun _ => rfl⟩

/-- The invalid channel numbers at the ends of their ranges, none of them the number of a channel. -/
theorem witness_invalid_channels :
    [0#8, 5#8, 255#8].all (fun ch => decide ((ch.toNat = 0 ∨ 5 ≤ ch.toNat) ∧ ∀ n, n ∈ [Channel.c1, .c2, .c3, .c4] →
      channelNumber n ≠ ch)) = true ∧ off.en = false ∧ live.en = true := by decide

theorem witness_SetDirSetsTerminals : live.cons.get .c1 = true ∧ (live.hold = false → serialReady live) := by decide

theorem witness_UnpreparedUsesRefused :
    live.en = true ∧ live.cons.get .c1 = true ∧ live.cons.get .c2 = false ∧ live.pmode.get .c2 = .unconfigured := by decide

/-- A refusal of each kind in a coherent state. -/
theorem witness_OnlyNamedUsesRefused :
    exec .enable live = .refused .enableTwice ∧ exec (.construct 1#8 0#8 true) live = .refused .constructTwice ∧
    exec (.setDir 2#8 .forward) live = .refused .channelNotConstructed ∧
    exec (.setSpeed 2#8 1#8) live = .refused .channelNotConstructed ∧
    exec (.pwmSet 2#8 1#8) live = .refused .channelNotConfigured ∧
    exec .release off = .refused (.pinNotConfigured .latch) ∧
    exec .transmit off = .refused (.pinNotConfigured .latch) ∧
    exec (.setState 1#8) off = .refused (.pinNotConfigured .latch) := ⟨rfl, rfl, rfl, rfl, rfl, rfl, rfl, rfl⟩

/-- Every command the frames name completes somewhere. -/
theorem witness_frames :
    exec .transmit live = .next (afterTransmission live) ∧ exec .hold live = .next (setHold true live) ∧
    exec .release live = .next (afterBurst (setHold false live)) ∧
    exec (.updateBits 3#8 1#8) live = .next (maskedUpdate 3#8 1#8 live) ∧
    exec (.setState 9#8) live = .next (afterTransmission (setLatchState 9#8 live)) ∧
    (∃ t, exec (.setDir (channelNumber .c1) .forward) live = .next t) ∧
    (∃ t, exec (.pwmInit (channelNumber .c1) 4#8 true) live = .next t) ∧
    (∃ t, exec (.pwmSet (channelNumber .c1) 4#8) live = .next t) ∧
    (∃ t, exec (.setSpeed (channelNumber .c3) 200#8) live = .next t) ∧
    (∃ t, exec (.construct (channelNumber .c2) 4#8 false) live = .next t) :=
  ⟨exec_transmit_next.mpr ⟨fun _ => witness_live_ready, rfl⟩, rfl, exec_release_next.mpr ⟨witness_live_ready, rfl⟩, rfl,
    exec_setState_next.mpr ⟨fun _ => witness_live_ready, rfl⟩,
    ⟨_, exec_setDir_next.mpr (.inr ⟨.c1, rfl, rfl, fun _ => witness_live_ready, rfl⟩)⟩,
    ⟨_, exec_pwmInit_next.mpr (.inr ⟨.c1, rfl, rfl⟩)⟩, ⟨_, rfl⟩, ⟨_, rfl⟩,
    ⟨_, exec_construct_next.mpr (.inr ⟨.c2, rfl, rfl, constructChannel_eq_next.mpr ⟨fun _ => witness_live_ready, rfl⟩⟩)⟩⟩

theorem witness_LatchStateWriters : (afterTransmission (setLatchState 9#8 live)).ls ≠ live.ls := by decide

theorem witness_ChannelsAreIsolated : Channel.c2 ≠ Channel.c1 ∧ live.en = true := by decide

theorem witness_OnlySetStateSetsBothTerminals :
    (Instr.setDir (channelNumber .c1) .forward).isPublic = true ∧ (∀ v, Instr.setDir (channelNumber .c1) .forward ≠ .setState v) ∧
    ∀ n, bothTerminals Config.params n live = false :=
  ⟨rfl, fun _ h => (by cases h), fun n => by simp [bothTerminals, live, on]⟩

theorem witness_OutputEnableOnlyByEnabling :
    exec .enable off = .next (afterEnable Config.params off) ∧ (afterEnable Config.params off).qen ≠ off.qen :=
  ⟨exec_enable_next.mpr ⟨rfl, rfl⟩, by simp [off]⟩

theorem witness_HoldWindowSendsOneBurst :
    ({ live with hold := true } : State).hold = true ∧ Instr.release ∉ [Instr.setState 0x22#8, .hold] ∧
    runInstrs [.setState 0x22#8, .hold] { live with hold := true } = .next { live with hold := true, ls := 0x22#8 } ∧
    serialReady { live with hold := true, ls := 0x22#8 } := ⟨rfl, by decide, rfl, witness_live_ready⟩

theorem witness_BootOrderYieldsReadyBlock :
    [(Channel.c2, 3#8, true), (.c4, 0#8, false)] ≠ [] ∧
    ([(Channel.c2, 3#8, true), (.c4, 0#8, false)].map (fun e => e.1)).Nodup ∧ off.en = false ∧ off.hold = false ∧
    ∀ n, off.cons.get n = false := ⟨by decide, by decide, rfl, rfl, fun n => by cases n <;> rfl⟩

theorem witness_chip_hypotheses :
    live.pinDir.clk = .output ∧ live.pinDir.latch = .output ∧
    (live.pinWritten.clk = true ∧ live.pinLvl.clk = true) ∧
    ({ live with pinLvl := { live.pinLvl with clk := false } } : State).pinLvl.clk = false ∧
    ({ live with pinWritten := { live.pinWritten with clk := false } } : State).pinWritten.clk = false ∧
    ({ live with pinLvl := { live.pinLvl with latch := false } } : State).pinLvl.latch = false := ⟨rfl, rfl, ⟨rfl, rfl⟩, rfl, rfl, rfl⟩

/-- The live state with a word presented meets every invariant and steps. -/
theorem witness_step : step (live.withFetchWord 32 0x04000000) = .next { live with hold := true, response := none } := rfl

theorem witness_timersCanonical : timersCanonical live := by simp [timersCanonical, live, on]

theorem witness_sharedProgrammedOnce : sharedProgrammedOnce Config.params live := by
  intro t _
  by_cases h : channelTimer Config.params .c1 = t <;>
    simp [live, on, off, timerInitialised, timerLookup, h, txEvents, bitEvents, isBaseOf]

theorem witness_outputEnableWrittenOnce : outputEnableWrittenOnce live := rfl

theorem witness_clockDisciplined : clockDisciplined none none live.trace = true := by
  simp [live, on, off, txEvents, bitEvents, clockDisciplined]

theorem witness_mirrored :
    mirrored live ∧ live.en = true ∧ live.hold = false ∧ Instr.isPublic (.setState 9#8) = true :=
  ⟨fun _ _ => ⟨rfl, rfl⟩, rfl, rfl, rfl⟩

end Sys2Proof.Tests
end

namespace Sys2Proof.Machine

/-! ## What the shared operations refuse -/

/-- The counterpart of `next_eq_next` for a refusal. -/
theorem refused_eq_refused {why why' : Refusal} : (Host.Outcome.refused why : Result) = .refused why' ↔ why' = why :=
  ⟨fun h => by cases h; rfl, fun h => h ▸ rfl⟩

/-- A sequence is refused exactly when its first part is, or its second part is from where the first ends. -/
theorem andThen_eq_refused {r : Result} {f : State → Result} {why : Refusal} :
    andThen r f = .refused why ↔ r = .refused why ∨ ∃ s, r = .next s ∧ f s = .refused why := by
  cases r <;> simp [andThen]

/-- A transmission is refused only for an unconfigured serial line, and never while held (40_latch_driver.md R62). -/
theorem unready_of_transmission_refused {P : Params} {s : State} {why : Refusal} (h : transmission P s = .refused why) :
    s.hold = false ∧ ¬ serialReady s ∧ ∃ p, why = .pinNotConfigured p := by
  by_cases hr : s.hold = false → serialReady s
  · rw [transmission_ready P hr] at h
    cases h
  · obtain ⟨hh, hs⟩ := Classical.not_imp.mp hr
    rw [transmission_free P hh, burst_unready P hs] at h
    cases h
    exact ⟨hh, hs, _, rfl⟩

/-- Everything `PWMSET` of a valid channel is refused for (41_timer_backend.md R83). -/
theorem writeDuty_eq_refused {P : Params} {n : Channel} {duty : Byte} {s : State} {why : Refusal} :
    writeDuty P n duty s = .refused why ↔
      (s.pmode.get n = .unconfigured ∧ why = .channelNotConfigured) ∨
      (s.pmode.get n = .digital ∧ s.pinDir.get (.pwm n) = .unconfigured ∧ why = .pinNotConfigured (.pwm n)) := by
  cases hm : s.pmode.get n with
  | unconfigured => simp [writeDuty, hm, refused_eq_refused, -Host.Outcome.refused.injEq]
  | pwm => simp [writeDuty, hm]
  | digital =>
    cases hd : s.pinDir.get (.pwm n) <;>
      simp [writeDuty, pinWrite, hm, hd, refused_eq_refused, -Host.Outcome.refused.injEq]

/-- The lazy enabling of a construction never refuses (42_motor_channel.md R90). -/
theorem lazyEnable_completes (P : Params) (s : State) : lazyEnable P s = .next (constructionBase P s) :=
  lazyEnable_eq_next.mpr rfl

/-! ## What each command is refused for -/

theorem exec_enable_refused {s : State} {why : Refusal} :
    exec .enable s = .refused why ↔ s.en = true ∧ why = .enableTwice := by
  show enabling Config.params s = .refused why ↔ _
  cases he : s.en with
  | false => simp [enabling_fresh Config.params he]
  | true => simp [enabling, he, refused_eq_refused, -Host.Outcome.refused.injEq]

theorem exec_pwmInit_not_refused (ch freq : Byte) (pwm : Bool) (s : State) (why : Refusal) :
    exec (.pwmInit ch freq pwm) s ≠ .refused why := by
  cases hc : channelOf ch <;> simp [exec, execPwmInit, hc]

theorem exec_pwmSet_refused {ch duty : Byte} {s : State} {why : Refusal} :
    exec (.pwmSet ch duty) s = .refused why ↔
      ∃ n, channelOf ch = some n ∧ writeDuty Config.params n duty s = .refused why := by
  cases hc : channelOf ch <;> simp [exec, execPwmSet, hc]

theorem exec_construct_refused {ch freq : Byte} {pwm : Bool} {s : State} {why : Refusal} :
    exec (.construct ch freq pwm) s = .refused why ↔ ∃ n, channelOf ch = some n ∧
      ((s.cons.get n = true ∧ why = .constructTwice) ∨
       (s.cons.get n = false ∧ transmission Config.params
          (maskedUpdate (channelMask Config.params n) 0#8 (constructionBase Config.params s)) = .refused why)) := by
  cases hc : channelOf ch with
  | none => simp [exec, execConstruct, construction, hc, lazyEnable_completes]
  | some n =>
    cases hk : s.cons.get n with
    | true => simp [exec, execConstruct, construction, hc, hk, refused_eq_refused, -Host.Outcome.refused.injEq]
    | false =>
      simp [exec, execConstruct, construction, hc, hk, lazyEnable_completes, constructChannel, andThen_eq_refused]

theorem exec_setDir_refused {ch : Byte} {dir : Direction} {s : State} {why : Refusal} :
    exec (.setDir ch dir) s = .refused why ↔ ∃ n, channelOf ch = some n ∧
      ((s.cons.get n = false ∧ why = .channelNotConstructed) ∨
       (s.cons.get n = true ∧ transmission Config.params
          (maskedUpdate (channelMask Config.params n) (directionValue Config.params n dir) s) = .refused why)) := by
  cases hc : channelOf ch with
  | none => simp [exec, execSetDir, direction, hc]
  | some n => cases hk : s.cons.get n <;> simp [exec, execSetDir, direction, hc, hk, refused_eq_refused, -Host.Outcome.refused.injEq]

theorem exec_setSpeed_refused {ch duty : Byte} {s : State} {why : Refusal} :
    exec (.setSpeed ch duty) s = .refused why ↔ ∃ n, channelOf ch = some n ∧
      ((s.cons.get n = false ∧ why = .channelNotConstructed) ∨
       (s.cons.get n = true ∧ writeDuty Config.params n duty s = .refused why)) := by
  cases hc : channelOf ch with
  | none => simp [exec, execSetSpeed, speed, hc]
  | some n => cases hk : s.cons.get n <;> simp [exec, execSetSpeed, speed, hc, hk, refused_eq_refused, -Host.Outcome.refused.injEq]

/-! ## What a coherent state rules out -/

section Coherent

variable {P : Params} {s : State} {why : Refusal} (hco : Coherent P s)
include hco

theorem Coherent.serialReady_of_enabled (he : s.en = true) : serialReady s := by
  obtain ⟨hd, hc, hl, -⟩ := hco.enabled he
  exact ⟨hd, hc, hl⟩

/-- A construction builds its channel from configured lines, whether it enables the block or finds it enabled. -/
theorem Coherent.constructionBase_serialReady : serialReady (constructionBase P s) := by
  cases he : s.en with
  | true => rw [constructionBase_enabled P he]; exact hco.serialReady_of_enabled he
  | false => simp [constructionBase_fresh P he, serialReady]

/-- In a coherent state a fallback channel's pin is an output, so only the unconfigured mode is left to refuse. -/
theorem Coherent.unconfigured_of_writeDuty_refused {n : Channel} {duty : Byte} (h : writeDuty P n duty s = .refused why) :
    s.pmode.get n = .unconfigured ∧ why = .channelNotConfigured := by
  rcases writeDuty_eq_refused.mp h with hu | ⟨hm, hd, -⟩
  · exact hu
  · rw [hco.fallbackPin n hm] at hd
    cases hd

/-- A transmission of any LatchState under any hold flag is refused only before the block is enabled
(70_reset_and_hazards.md R121). -/
theorem Coherent.disabled_of_transmission_refused {t : State} (hp : t.pinDir = s.pinDir)
    (h : transmission P t = .refused why) : t.hold = false ∧ s.en = false ∧ ∃ p, why = .pinNotConfigured p := by
  obtain ⟨hh, hr, hw⟩ := unready_of_transmission_refused h
  rw [serialReady, hp] at hr
  exact ⟨hh, Bool.eq_false_iff.mpr fun he => hr (hco.serialReady_of_enabled he), hw⟩

end Coherent

/-! ## The obligations -/

/-- Settles O32: each refusal is one case of what its command is refused for. -/
theorem unpreparedUsesRefused : Obligations.UnpreparedUsesRefused := by
  unfold Obligations.UnpreparedUsesRefused
  intro n s
  have hn := channelOf_number n
  refine ⟨fun he => exec_enable_refused.mpr ⟨he, rfl⟩, fun hk freq pwm => ?_, fun hk dir => ?_, fun hk duty => ?_,
    fun hm duty => ?_⟩
  · exact exec_construct_refused.mpr ⟨n, hn, .inl ⟨hk, rfl⟩⟩
  · exact exec_setDir_refused.mpr ⟨n, hn, .inl ⟨hk, rfl⟩⟩
  · exact exec_setSpeed_refused.mpr ⟨n, hn, .inl ⟨hk, rfl⟩⟩
  · exact exec_pwmSet_refused.mpr ⟨n, hn, writeDuty_eq_refused.mpr (.inl ⟨hm, rfl⟩)⟩

/-- Settles O33, by cases on the command: a constructed channel has an enabled block, an enabled block has its serial lines
configured, and a fallback channel has its pin configured, so no other refusal is left. -/
theorem onlyNamedUsesRefused : Obligations.OnlyNamedUsesRefused := by
  unfold Obligations.OnlyNamedUsesRefused
  intro i s why hco h
  cases i with
  | enable =>
    obtain ⟨he, rfl⟩ := exec_enable_refused.mp h
    exact .inl ⟨rfl, rfl, he⟩
  | updateBits m v => cases h
  | transmit =>
    obtain ⟨hh, he, p, rfl⟩ := hco.disabled_of_transmission_refused rfl h
    exact .inr (.inr (.inr (.inr ⟨p, rfl, he, .inr ⟨hh, .inl rfl⟩⟩)))
  | hold => cases h
  | release =>
    obtain ⟨-, he, p, rfl⟩ := hco.disabled_of_transmission_refused (setHold_pinDir s false) h
    exact .inr (.inr (.inr (.inr ⟨p, rfl, he, .inl rfl⟩)))
  | getState => cases h
  | setState v =>
    obtain ⟨hh, he, p, rfl⟩ := hco.disabled_of_transmission_refused (setLatchState_pinDir s v) h
    exact .inr (.inr (.inr (.inr ⟨p, rfl, he, .inr ⟨hh, .inr ⟨v, rfl⟩⟩⟩)))
  | pwmInit ch freq pwm => exact absurd h (exec_pwmInit_not_refused ch freq pwm s why)
  | pwmSet ch duty =>
    obtain ⟨n, hc, hw⟩ := exec_pwmSet_refused.mp h
    obtain ⟨hm, rfl⟩ := hco.unconfigured_of_writeDuty_refused hw
    exact .inr (.inr (.inr (.inl ⟨rfl, n, duty, by rw [channelOf_eq_some hc], hm⟩)))
  | construct ch freq pwm =>
    obtain ⟨n, hc, ⟨hk, rfl⟩ | ⟨-, ht⟩⟩ := exec_construct_refused.mp h
    · exact .inr (.inl ⟨rfl, n, freq, pwm, by rw [channelOf_eq_some hc], hk⟩)
    · obtain ⟨-, hr, -⟩ := unready_of_transmission_refused ht
      exact absurd hco.constructionBase_serialReady hr
  | setDir ch dir =>
    obtain ⟨n, hc, ⟨hk, rfl⟩ | ⟨hk, ht⟩⟩ := exec_setDir_refused.mp h
    · exact .inr (.inr (.inl ⟨rfl, n, hk, .inl ⟨dir, by rw [channelOf_eq_some hc]⟩⟩))
    · obtain ⟨-, he, -⟩ := hco.disabled_of_transmission_refused (maskedUpdate_pinDir s _ _) ht
      obtain ⟨hen, -⟩ := hco.constructed n hk
      rw [hen] at he
      cases he
  | setSpeed ch duty =>
    obtain ⟨n, hc, ⟨hk, rfl⟩ | ⟨hk, hw⟩⟩ := exec_setSpeed_refused.mp h
    · exact .inr (.inr (.inl ⟨rfl, n, hk, .inr ⟨duty, by rw [channelOf_eq_some hc]⟩⟩))
    · obtain ⟨hm, -⟩ := hco.unconfigured_of_writeDuty_refused hw
      obtain ⟨-, hconf⟩ := hco.constructed n hk
      exact absurd hm hconf

end Sys2Proof.Machine

namespace Sys2Proof.Machine

/-! ## What every step keeps, from what every command keeps -/

/-- A predicate that issuing a command and completing one both keep is kept by every step (30_encoding.md R45). -/
theorem step_keeps {I : State → Prop} (issued : ∀ s rest, I s → I { s with commands := rest, response := none })
    (completed : ∀ {i s t}, Completes i s t → I s → I t) {s t : State} (hs : I s) (h : step s = .next t) : I t := by
  rcases step_next h with ⟨-, rfl⟩ | ⟨w, rest, i, -, -, hc⟩
  · exact hs
  · exact completed hc (issued s rest hs)

/-! ## Coherence, one rule for each update -/

/-- A pin that is an output stays one when any pin is made an output (10_state.md R23). -/
theorem perPin_get_set_output {v : PerPin PinDir} {r : Pin} (p : Pin) (h : v.get r = .output) :
    (v.set p .output).get r = .output := by
  rw [perPin_get_set]
  split
  · rfl
  · exact h

/-- A timer's flag is set exactly when it is set in the list of flags. -/
theorem timerInitialised_congr {s t : State} (h : t.tinit = s.tinit) (k : Timer) :
    timerInitialised k t = timerInitialised k s := by
  rw [timerInitialised, timerInitialised, h]

/-- A base once programmed stays programmed, and channel n's is programmed after its initialisation or was before
(41_timer_backend.md R81, R82). -/
theorem timerLookup_programBase_isSome {P : Params} {s : State}
    (hp : ∀ k, timerInitialised k s = true ↔ (timerLookup k s.tbase).isSome = true) (n : Channel) (freq : Byte) (k : Timer) :
    (timerLookup k (programBase P n freq s).tbase).isSome = (decide (k = channelTimer P n) || timerInitialised k s) := by
  have hk : (timerLookup k s.tbase).isSome = timerInitialised k s := Bool.eq_iff_iff.mpr (hp k).symm
  by_cases he : k = channelTimer P n
  · unfold programBase
    split
    · next hd =>
      obtain ⟨-, hi⟩ := Bool.and_eq_true_iff.mp hd
      simp [he, (hp _).mp hi]
    · simp [he, timerLookup_put_same]
  · have hother : timerLookup k (programBase P n freq s).tbase = timerLookup k s.tbase :=
      timerLookup_initialisePwm P s n freq true he
    simp [hother, hk, he]

section Coherent

variable {P : Params} {s : State} (hco : Coherent P s)
include hco

/-- Coherence speaks neither of LatchState, the hold flag, the compare registers, the channels' parameters and the chip's two
stages, nor of the history, the ports and the draws. -/
theorem Coherent.of_unrelated_fields (ls : Byte) (hold : Bool) (cmp freq : PerChannel Byte) (pwmen : PerChannel Bool) (sr q : Byte)
    (trace : List Event) (response : Option Byte) (responses : List Byte) (commands : List Word) (draws : Nat) :
    Coherent P { s with
      ls := ls, hold := hold, cmp := cmp, freq := freq, pwmen := pwmen, sr := sr, q := q, trace := trace, response := response,
      responses := responses, commands := commands, draws := draws } :=
  ⟨hco.enabled, hco.driven, hco.writtenOutput, hco.constructed, hco.fallbackPin, hco.pwmTimer, hco.programmed⟩

/-- Making a pin an output only adds an output (10_state.md R23). -/
theorem Coherent.pinCfg (p : Pin) : Coherent P (pinCfg p s) where
  enabled he := by
    obtain ⟨hd, hc, hl, ho, hw, hv⟩ := hco.enabled he
    exact ⟨perPin_get_set_output (r := .data) p hd, perPin_get_set_output (r := .clk) p hc,
      perPin_get_set_output (r := .latch) p hl, perPin_get_set_output (r := .oe) p ho, hw, hv⟩
  driven := hco.driven
  writtenOutput r hr := perPin_get_set_output p (hco.writtenOutput r hr)
  constructed := hco.constructed
  fallbackPin n hn := perPin_get_set_output p (hco.fallbackPin n hn)
  pwmTimer := hco.pwmTimer
  programmed := hco.programmed

/-- A channel whose pin or timer is ready for a mode may be put into that mode (10_state.md R19). -/
theorem Coherent.setMode {n : Channel} {m : PMode} (hconf : m ≠ .unconfigured)
    (hpin : m = .digital → s.pinDir.get (.pwm n) = .output)
    (htimer : m = .pwm → timerInitialised (channelTimer P n) s = true) : Coherent P (setMode n m s) where
  enabled := hco.enabled
  driven := hco.driven
  writtenOutput := hco.writtenOutput
  constructed k hk := by
    obtain ⟨he, hm⟩ := hco.constructed k hk
    refine ⟨he, ?_⟩
    rw [setMode_pmode, perChannel_get_set]
    split
    · exact hconf
    · exact hm
  fallbackPin k hk := by
    rw [setMode_pmode, perChannel_get_set] at hk
    split at hk
    · next h => subst h; exact hpin hk
    · exact hco.fallbackPin k hk
  pwmTimer k hk := by
    rw [setMode_pmode, perChannel_get_set] at hk
    split at hk
    · next h => subst h; exact htimer hk
    · exact hco.pwmTimer k hk
  programmed := hco.programmed

/-- Programming a timer's base sets its flag with it (41_timer_backend.md R81). -/
theorem Coherent.programBase (n : Channel) (freq : Byte) : Coherent P (programBase P n freq s) where
  enabled := by simpa using hco.enabled
  driven := by simpa using hco.driven
  writtenOutput := by simpa using hco.writtenOutput
  constructed := by simpa using hco.constructed
  fallbackPin := by simpa using hco.fallbackPin
  pwmTimer k hk := by
    have hkept := hco.pwmTimer k (by simpa using hk)
    rw [timerInitialised_programBase, hkept, Bool.or_true]
  programmed k := by
    rw [timerLookup_programBase_isSome hco.programmed, timerInitialised_programBase]

theorem Coherent.initialisePwm (n : Channel) (freq : Byte) (pwm : Bool) : Coherent P (initialisePwm P n freq pwm s) := by
  cases pwm with
  | false =>
    have hpin : (Machine.pinCfg (.pwm n) s).pinDir.get (.pwm n) = .output := by simp
    exact (hco.pinCfg (.pwm n)).setMode (by decide) (fun _ => hpin) (fun h => by cases h)
  | true =>
    have htimer : timerInitialised (channelTimer P n) (Machine.programBase P n freq s) = true := by
      simp [timerInitialised_programBase]
    have hmode := (hco.programBase n freq).setMode (m := .pwm) (by decide) (fun h => by cases h) (fun _ => htimer)
    exact hmode.of_unrelated_fields ..

/-- A write of an output PWM pin concerns no control line (00_scope.md R8). -/
theorem Coherent.pwmPinWrite {n : Channel} (l : Bool) (hpin : s.pinDir.get (.pwm n) = .output) :
    Coherent P (record (.write (.pwm n) l) (setLevel (.pwm n) l s)) where
  enabled := hco.enabled
  driven := hco.driven
  writtenOutput p hp := by
    by_cases he : p = .pwm n
    · subst he; exact hpin
    · rw [record_pinWritten, setLevel_pinWritten, perPin_get_set_other _ _ he] at hp
      exact hco.writtenOutput p hp
  constructed := hco.constructed
  fallbackPin := hco.fallbackPin
  pwmTimer := hco.pwmTimer
  programmed := hco.programmed

/-- A channel of an enabled block may be recorded once its pin is in a mode (42_motor_channel.md R90). -/
theorem Coherent.recordChannel {n : Channel} (freq : Byte) (pwm : Bool) (he : s.en = true) (hm : s.pmode.get n ≠ .unconfigured) :
    Coherent P (recordChannel n freq pwm s) where
  enabled := hco.enabled
  driven := hco.driven
  writtenOutput := hco.writtenOutput
  constructed k hk := by
    by_cases hkn : k = n
    · subst hkn; exact ⟨he, hm⟩
    · rw [recordChannel_cons, perChannel_get_set_other _ _ hkn] at hk
      exact hco.constructed k hk
  fallbackPin := hco.fallbackPin
  pwmTimer := hco.pwmTimer
  programmed := hco.programmed

/-- A burst writes the three serial lines only, which it finds to be outputs (40_latch_driver.md R62). -/
theorem Coherent.afterBurst (hr : serialReady s) : Coherent P (afterBurst s) where
  enabled := hco.enabled
  driven := hco.driven
  writtenOutput p hp := by
    obtain ⟨hd, hc, hl⟩ := hr
    cases p with
    | data => exact hd
    | clk => exact hc
    | latch => exact hl
    | oe => exact hco.writtenOutput .oe hp
    | pwm n => exact hco.writtenOutput (.pwm n) hp
  constructed := hco.constructed
  fallbackPin := hco.fallbackPin
  pwmTimer := hco.pwmTimer
  programmed := hco.programmed

theorem Coherent.afterTransmission (hr : s.hold = false → serialReady s) : Coherent P (afterTransmission s) := by
  cases hh : s.hold with
  | true => rwa [afterTransmission_held hh]
  | false => rw [afterTransmission_free hh]; exact hco.afterBurst (hr hh)

/-- The enabling configures the control lines, makes the output-enable line active and sets the flag (40_latch_driver.md R60). -/
theorem Coherent.afterEnable : Coherent P (afterEnable P s) where
  enabled _ := by simp
  driven _ := by simp
  writtenOutput p hp := by
    cases p with
    | pwm n =>
      have hw : s.pinWritten.pwm.get n = true := by simpa [PerPin.get] using hp
      simpa [PerPin.get] using hco.writtenOutput (.pwm n) hw
    | _ => simp [PerPin.get]
  constructed n hn := by
    obtain ⟨-, hm⟩ := hco.constructed n (by simpa using hn)
    simpa using hm
  fallbackPin n hn := by
    simpa [PerPin.get] using hco.fallbackPin n (by simpa using hn)
  pwmTimer n hn := by
    rw [timerInitialised_congr (afterEnable_tinit P s)]
    exact hco.pwmTimer n (by simpa using hn)
  programmed k := by
    rw [timerInitialised_congr (afterEnable_tinit P s), afterEnable_tbase]
    exact hco.programmed k

theorem Coherent.constructionBase : Coherent P (constructionBase P s) := by
  cases he : s.en with
  | true => rwa [constructionBase_enabled P he]
  | false => rw [constructionBase_fresh P he]; exact hco.afterEnable

end Coherent

/-- After an initialisation the channel is in a mode (41_timer_backend.md R81). -/
theorem initialisePwm_configured (P : Params) (n : Channel) (freq : Byte) (pwm : Bool) (s : State) :
    (initialisePwm P n freq pwm s).pmode.get n ≠ .unconfigured := by
  rw [initialisePwm_pmode, perChannel_get_set_same]
  cases pwm <;> decide

/-- Every command that completes keeps the flags, the pins and the timers in agreement. -/
theorem Completes.keeps_coherent {i : Instr} {s t : State} (h : Completes i s t) (hco : Coherent Config.params s) :
    Coherent Config.params t := by
  cases h with
  | enable => exact hco.afterEnable
  | updateBits | hold | getState | pwmSetHardware | setSpeedHardware => exact hco.of_unrelated_fields ..
  | transmit ready => exact hco.afterTransmission ready
  | release ready => exact (hco.of_unrelated_fields ..).afterBurst (s := setHold false s) ready
  | setState ready => exact (hco.of_unrelated_fields ..).afterTransmission (s := setLatchState _ s) ready
  | pwmInit => exact hco.initialisePwm _ _ _
  | pwmSetFallback mode pin => exact hco.pwmPinWrite _ pin
  | setSpeedFallback built mode pin => exact hco.pwmPinWrite _ pin
  | @construct _ n freq pwm first ready =>
    have hsent := (hco.constructionBase.of_unrelated_fields ..).afterTransmission
      (s := maskedUpdate (channelMask Config.params n) 0#8 (constructionBase Config.params s))
      (fun hh => ready (by simpa using hh))
    exact (hsent.initialisePwm n freq pwm).recordChannel freq pwm (by simp) (initialisePwm_configured _ n freq pwm _)
  | constructInvalid => exact hco.constructionBase
  | setDir built ready => exact (hco.of_unrelated_fields ..).afterTransmission (s := maskedUpdate _ _ s) ready
  | pwmInitInvalid | pwmSetInvalid | setDirInvalid | setSpeedInvalid => exact hco

/-- Settles O53: issuing a command touches only the ports, and each way a command can complete keeps coherence by the rules of the
updates it is made of. -/
theorem stepKeepsCoherent : Obligations.StepKeepsCoherent := by
  unfold Obligations.StepKeepsCoherent
  intro s t hco h
  exact step_keeps (fun s rest hs => hs.of_unrelated_fields ..) Completes.keeps_coherent hco h

/-! ## The events of an initialisation -/

/-- What programming channel n's base records: nothing if its shared timer has one (41_timer_backend.md R81, R82). -/
def baseEvents (P : Params) (n : Channel) (freq : Byte) (s : State) : List Event :=
  if timerShared P (channelTimer P n) && timerInitialised (channelTimer P n) s then [] else [.timerBase (channelTimer P n) freq]

/-- What an initialisation records: the base if it is due, the channel's mode, its compare register; or the pin's configuration
(41_timer_backend.md R81). -/
def initialisationEvents (P : Params) (n : Channel) (freq : Byte) (pwm : Bool) (s : State) : List Event :=
  if pwm then baseEvents P n freq s ++ [.chanPwm n, .cmp n 0#8] else [.cfg (.pwm n)]

theorem programBase_trace (P : Params) (n : Channel) (freq : Byte) (s : State) :
    (programBase P n freq s).trace = s.trace ++ baseEvents P n freq s := by
  unfold programBase baseEvents
  split <;> simp

theorem initialisePwm_trace (P : Params) (n : Channel) (freq : Byte) (pwm : Bool) (s : State) :
    (initialisePwm P n freq pwm s).trace = s.trace ++ initialisationEvents P n freq pwm s := by
  cases pwm <;> simp [initialisePwm, initialisationEvents, programBase_trace]

theorem baseEvents_length (P : Params) (n : Channel) (freq : Byte) (s : State) : (baseEvents P n freq s).length ≤ 1 := by
  unfold baseEvents
  split <;> simp

theorem initialisationEvents_length (P : Params) (n : Channel) (freq : Byte) (pwm : Bool) (s : State) :
    (initialisationEvents P n freq pwm s).length ≤ 3 := by
  cases pwm with
  | false => simp [initialisationEvents]
  | true => simpa [initialisationEvents] using baseEvents_length P n freq s

/-! ## The mirror invariant -/

/-- The chip outputs LatchState, and the last eight data writes, read last to first, are its bits (10_state.md R12). -/
def showsLatchState (s : State) : Prop :=
  s.q = s.ls ∧ (dataWrites s.trace).reverse.take 8 =
    [s.ls.getLsbD 0, s.ls.getLsbD 1, s.ls.getLsbD 2, s.ls.getLsbD 3, s.ls.getLsbD 4, s.ls.getLsbD 5, s.ls.getLsbD 6,
      s.ls.getLsbD 7]

/-- The invariant says of an enabled block that is not held that it shows LatchState. -/
theorem mirrored_iff {s : State} : mirrored s ↔ (s.en = true → s.hold = false → showsLatchState s) := Iff.rfl

theorem showsLatchState.congr {s t : State} (hs : showsLatchState s) (hls : t.ls = s.ls) (hq : t.q = s.q)
    (htrace : dataWrites t.trace = dataWrites s.trace) : showsLatchState t := by
  rw [showsLatchState, hls, hq, htrace]
  exact hs

theorem mirrored.congr {s t : State} (hs : mirrored s) (hen : t.en = s.en) (hhold : t.hold = s.hold) (hls : t.ls = s.ls)
    (hq : t.q = s.q) (htrace : dataWrites t.trace = dataWrites s.trace) : mirrored t := by
  rw [mirrored_iff, hen, hhold]
  exact fun he hh => showsLatchState.congr (hs he hh) hls hq htrace

theorem dataWrites_append (xs ys : List Event) : dataWrites (xs ++ ys) = dataWrites xs ++ dataWrites ys := by
  induction xs with
  | nil => rfl
  | cons e xs ih =>
    cases e with
    | write p l => cases p <;> simp [dataWrites, ih]
    | _ => exact ih

/-- The data writes of one transmission, most significant bit first (40_latch_driver.md R62). -/
theorem dataWrites_txEvents (v : Byte) : dataWrites (txEvents v) = [v.getLsbD 7, v.getLsbD 6, v.getLsbD 5, v.getLsbD 4,
    v.getLsbD 3, v.getLsbD 2, v.getLsbD 1, v.getLsbD 0] := rfl

/-- After a burst the block shows LatchState, whatever it showed before (60_exceptions.md R111). -/
theorem showsLatchState_afterBurst (s : State) : showsLatchState (afterBurst s) := by
  refine ⟨by simp, ?_⟩
  simp [dataWrites_append, dataWrites_txEvents]

theorem mirrored_afterBurst (s : State) : mirrored (afterBurst s) := fun _ _ => showsLatchState_afterBurst s

/-- A transmission restores the mirror: held it is asked for nothing, not held it is a burst. -/
theorem mirrored_afterTransmission (s : State) : mirrored (afterTransmission s) := by
  cases hh : s.hold with
  | true => rw [mirrored_iff, afterTransmission_hold, hh]; exact fun _ h => by cases h
  | false => rw [afterTransmission_free hh]; exact mirrored_afterBurst s

theorem afterEnable_q (P : Params) {s : State} (hh : s.hold = false) : (afterEnable P s).q = 0#8 := by
  simp [afterEnable, afterTransmission, hh]

/-- The enabling of a block not held shows the cleared LatchState (40_latch_driver.md R60). -/
theorem mirrored_afterEnable (P : Params) (s : State) : mirrored (afterEnable P s) := by
  intro _ hh
  rw [afterEnable_hold] at hh
  refine ⟨by rw [afterEnable_q P hh, afterEnable_ls], ?_⟩
  simp [afterEnable_trace, hh, dataWrites_append, dataWrites_txEvents, dataWrites]

theorem mirrored.constructionBase {s : State} (hs : mirrored s) (P : Params) : mirrored (constructionBase P s) := by
  cases he : s.en with
  | true => rwa [constructionBase_enabled P he]
  | false => rw [constructionBase_fresh P he]; exact mirrored_afterEnable P s

theorem dataWrites_initialisePwm (P : Params) (n : Channel) (freq : Byte) (pwm : Bool) (s : State) :
    dataWrites (initialisePwm P n freq pwm s).trace = dataWrites s.trace := by
  have hbase : dataWrites (baseEvents P n freq s) = [] := by
    unfold baseEvents
    split <;> rfl
  rw [initialisePwm_trace, dataWrites_append]
  cases pwm <;> simp [initialisationEvents, dataWrites_append, hbase, dataWrites]

/-- Settles O58: a hold makes the mirror vacuous, a release, a `SETSTATE`, a direction and a construction end their serial part with
a transmission, and what else a public command does is no data write and leaves LatchState and the chip alone. -/
theorem publicCommandsKeepMirror : Obligations.PublicCommandsKeepMirror := by
  unfold Obligations.PublicCommandsKeepMirror
  intro i s t hpublic hs h
  cases exec_completes h with
  | enable | updateBits | transmit | pwmInit | pwmInitInvalid | pwmSetHardware | pwmSetFallback | pwmSetInvalid => cases hpublic
  | hold => exact fun _ hh => by cases hh
  | release => exact mirrored_afterBurst _
  | setState | setDir => exact mirrored_afterTransmission _
  | construct =>
    exact (mirrored_afterTransmission _).congr (by simp) (by simp) (by simp) (by simp) (dataWrites_initialisePwm ..)
  | constructInvalid => exact hs.constructionBase Config.params
  | setSpeedHardware | setSpeedFallback => exact hs.congr rfl rfl rfl rfl (by simp [dataWrites_append, dataWrites])
  | getState | setDirInvalid | setSpeedInvalid => exact hs

/-! ## Frames -/

/-- Settles O34: each of the commands is a change of LatchState or of the hold flag, followed at most by a transmission. -/
theorem serialCommandsFrame : Obligations.SerialCommandsFrame := by
  unfold Obligations.SerialCommandsFrame
  rintro i s t (rfl | rfl | rfl | ⟨m, v, rfl⟩ | ⟨v, rfl⟩ | ⟨ch, dir, rfl⟩) h
  · obtain ⟨-, rfl⟩ := exec_transmit_next.mp h
    simp
  · obtain rfl := exec_hold_next.mp h
    simp
  · obtain ⟨-, rfl⟩ := exec_release_next.mp h
    simp
  · obtain rfl := exec_updateBits_next.mp h
    simp
  · obtain ⟨-, rfl⟩ := exec_setState_next.mp h
    simp
  · rcases exec_setDir_next.mp h with ⟨-, rfl⟩ | ⟨n, -, -, -, rfl⟩
    · simp
    · simp

/-- From s to t nothing changed but the timers, channel n's mode and compare register, channel n's PWM pin, and the history. -/
def onlyPwmOf (n : Channel) (s t : State) : Prop :=
  t.ls = s.ls ∧ t.hold = s.hold ∧ t.en = s.en ∧ t.cons = s.cons ∧ t.freq = s.freq ∧ t.pwmen = s.pwmen ∧ t.sr = s.sr ∧
  t.q = s.q ∧ t.qen = s.qen ∧ t.response = s.response ∧ t.responses = s.responses ∧ t.commands = s.commands ∧
  t.draws = s.draws ∧
  (∀ m, m ≠ n → t.pmode.get m = s.pmode.get m ∧ t.cmp.get m = s.cmp.get m) ∧
  (∀ p, p ≠ .pwm n → t.pinDir.get p = s.pinDir.get p ∧ t.pinLvl.get p = s.pinLvl.get p ∧
    t.pinWritten.get p = s.pinWritten.get p) ∧
  (∀ k, k ≠ channelTimer Config.params n → timerInitialised k t = timerInitialised k s ∧ timerBase k t = timerBase k s)

theorem onlyPwmOf_cmpWrite (n : Channel) (v : Byte) (s : State) : onlyPwmOf n s (cmpWrite n v s) :=
  ⟨rfl, rfl, rfl, rfl, rfl, rfl, rfl, rfl, rfl, rfl, rfl, rfl, rfl, fun _ hm => ⟨rfl, perChannel_get_set_other _ _ hm⟩,
    fun _ _ => ⟨rfl, rfl, rfl⟩, fun _ _ => ⟨rfl, rfl⟩⟩

theorem onlyPwmOf_pwmPinWrite (n : Channel) (l : Bool) (s : State) :
    onlyPwmOf n s (record (.write (.pwm n) l) (setLevel (.pwm n) l s)) :=
  ⟨rfl, rfl, rfl, rfl, rfl, rfl, rfl, rfl, rfl, rfl, rfl, rfl, rfl, fun _ _ => ⟨rfl, rfl⟩,
    fun _ hp => ⟨rfl, perPin_get_set_other _ _ hp, perPin_get_set_other _ _ hp⟩, fun _ _ => ⟨rfl, rfl⟩⟩

theorem onlyPwmOf_writeDuty {n : Channel} {duty : Byte} {s t : State} (h : writeDuty Config.params n duty s = .next t) :
    onlyPwmOf n s t := by
  rcases writeDuty_eq_next.mp h with ⟨-, rfl⟩ | ⟨-, -, rfl⟩
  · exact onlyPwmOf_cmpWrite n duty s
  · exact onlyPwmOf_pwmPinWrite n (dutyLevel duty) s

theorem onlyPwmOf_initialisePwm (n : Channel) (freq : Byte) (pwm : Bool) (s : State) :
    onlyPwmOf n s (initialisePwm Config.params n freq pwm s) := by
  refine ⟨by simp, by simp, by simp, by simp, by simp, by simp, by simp, by simp, by simp, by simp, by simp, by simp, by simp,
    fun m hm => ⟨?_, ?_⟩, fun p hp => ⟨?_, by simp, by simp⟩, fun k hk => ⟨?_, ?_⟩⟩
  · rw [initialisePwm_pmode, perChannel_get_set_other _ _ hm]
  · rw [initialisePwm_cmp]
    split
    · exact perChannel_get_set_other _ _ hm
    · rfl
  · rw [initialisePwm_pinDir]
    split
    · rfl
    · exact perPin_get_set_other _ _ hp
  · simp [timerInitialised_initialisePwm, hk]
  · rw [timerBase, timerLookup_initialisePwm Config.params s n freq pwm hk, timerBase]

/-- Settles O35: the commands are an initialisation of channel n's PWM pin or a write of its duty. -/
theorem timerCommandsFrame : Obligations.TimerCommandsFrame := by
  unfold Obligations.TimerCommandsFrame
  intro n i s t hi h
  show onlyPwmOf n s t
  rcases hi with ⟨freq, pwm, rfl⟩ | ⟨duty, rfl⟩ | ⟨duty, rfl⟩
  · obtain rfl : t = initialisePwm Config.params n freq pwm s := by simpa using exec_pwmInit_next.mp h
    exact onlyPwmOf_initialisePwm n freq pwm s
  · exact onlyPwmOf_writeDuty (by simpa using exec_pwmSet_next.mp h)
  · obtain ⟨-, hw⟩ : s.cons.get n = true ∧ writeDuty Config.params n duty s = .next t := by
      simpa using exec_setSpeed_next.mp h
    exact onlyPwmOf_writeDuty hw

/-! ## Who writes which flag -/

/-- Settles O37, by cases on the command: each that is not named leaves LatchState as it was. -/
theorem latchStateWriters : Obligations.LatchStateWriters := by
  unfold Obligations.LatchStateWriters
  intro i s t h hne
  cases exec_completes h with
  | enable => exact .inl rfl
  | updateBits => exact .inr (.inl ⟨_, _, rfl⟩)
  | setState => exact .inr (.inr (.inl ⟨_, rfl⟩))
  | construct | constructInvalid => exact .inr (.inr (.inr (.inl ⟨_, _, _, rfl⟩)))
  | setDir | setDirInvalid => exact .inr (.inr (.inr (.inr ⟨_, _, rfl⟩)))
  | _ => exact absurd (by simp) hne

/-- Settles O38: no update but `setHold` touches the flag, and `HOLD` and `RELEASE` alone use it. -/
theorem holdFlagWriters : Obligations.HoldFlagWriters := by
  unfold Obligations.HoldFlagWriters
  intro i s t h
  cases exec_completes h with
  | hold | release => rfl
  | _ => simp

/-- No flag that is set once is cleared from s to t (10_state.md R15, R16, R17). -/
def onceFlagsKept (s t : State) : Prop :=
  (s.en = true → t.en = true) ∧ (∀ k, timerInitialised k s = true → timerInitialised k t = true) ∧
  (∀ n, s.cons.get n = true → t.cons.get n = true)

/-- An update that touches neither a timer's flag nor a channel's record keeps the flags if it does not clear `EN`. -/
theorem onceFlagsKept_of_eq {s t : State} (hen : s.en = true → t.en = true) (ht : t.tinit = s.tinit) (hc : t.cons = s.cons) :
    onceFlagsKept s t :=
  ⟨hen, fun k hk => by rwa [timerInitialised_congr ht], fun n hn => by rwa [hc]⟩

theorem onceFlagsKept.trans {s t u : State} (h : onceFlagsKept s t) (h' : onceFlagsKept t u) : onceFlagsKept s u := by
  obtain ⟨hen, htimer, hcons⟩ := h
  obtain ⟨hen', htimer', hcons'⟩ := h'
  exact ⟨fun he => hen' (hen he), fun k hk => htimer' k (htimer k hk), fun n hn => hcons' n (hcons n hn)⟩

theorem onceFlagsKept_initialisePwm (P : Params) (n : Channel) (freq : Byte) (pwm : Bool) (s : State) :
    onceFlagsKept s (initialisePwm P n freq pwm s) :=
  ⟨by simp, fun k hk => by simp [timerInitialised_initialisePwm, hk], by simp⟩

theorem onceFlagsKept_recordChannel (n : Channel) (freq : Byte) (pwm : Bool) (s : State) :
    onceFlagsKept s (recordChannel n freq pwm s) := by
  refine ⟨id, fun _ => id, fun m hm => ?_⟩
  rw [recordChannel_cons, perChannel_get_set]
  split
  · rfl
  · exact hm

/-- No command that completes clears such a flag. -/
theorem Completes.keeps_onceFlags {i : Instr} {s t : State} (h : Completes i s t) : onceFlagsKept s t := by
  cases h with
  | pwmInit => exact onceFlagsKept_initialisePwm ..
  | @construct _ n =>
    have hsent : onceFlagsKept s (afterTransmission
        (maskedUpdate (channelMask Config.params n) 0#8 (constructionBase Config.params s))) :=
      onceFlagsKept_of_eq (by simp) (by simp) (by simp)
    exact (hsent.trans (onceFlagsKept_initialisePwm ..)).trans (onceFlagsKept_recordChannel ..)
  | _ => exact onceFlagsKept_of_eq (by simp) (by simp) (by simp)

/-- Settles O39: the flags set in s stay set through the command that a step runs. -/
theorem onceFlagsNeverCleared : Obligations.OnceFlagsNeverCleared := by
  unfold Obligations.OnceFlagsNeverCleared
  intro s t h
  exact step_keeps (I := onceFlagsKept s) (fun u rest hu => hu) (fun hc hu => hu.trans hc.keeps_onceFlags)
    (onceFlagsKept_of_eq id rfl rfl) h

/-! ## Speed and direction are independent -/

/-- An initialisation does the same whatever LatchState is (41_timer_backend.md R81). -/
theorem initialisePwm_setLatchState (P : Params) (n : Channel) (freq : Byte) (pwm : Bool) (v : Byte) (s : State) :
    initialisePwm P n freq pwm (setLatchState v s) = setLatchState v (initialisePwm P n freq pwm s) := by
  cases pwm with
  | false => rfl
  | true =>
    have hbase : programBase P n freq (setLatchState v s) = setLatchState v (programBase P n freq s) := by
      show (if timerShared P (channelTimer P n) && timerInitialised (channelTimer P n) s then _ else _) = _
      unfold programBase
      split <;> rfl
    simp only [initialisePwm, if_true, hbase]
    rfl

/-- Setting a duty does the same whatever LatchState is, where it completes and where it is refused (42_motor_channel.md R92). -/
theorem writeDuty_setLatchState (P : Params) (n : Channel) (duty v : Byte) (s : State) :
    writeDuty P n duty (setLatchState v s) = mapNext (setLatchState v) (writeDuty P n duty s) := by
  cases hm : s.pmode.get n with
  | unconfigured => simp [writeDuty, hm, mapNext]
  | pwm => simp only [writeDuty, setLatchState_pmode, hm]; rfl
  | digital =>
    cases hd : s.pinDir.get (.pwm n) with
    | unconfigured => simp [writeDuty, pinWrite, hm, hd, mapNext]
    | output => simp only [writeDuty, pinWrite, setLatchState_pmode, setLatchState_pinDir, hm, hd]; rfl

/-- Settles O42: an invalid channel does nothing, and what a valid one does is an initialisation or a duty. -/
theorem speedIgnoresLatchState : Obligations.SpeedIgnoresLatchState := by
  unfold Obligations.SpeedIgnoresLatchState
  intro v i s hi
  show exec i (setLatchState v s) = mapNext (setLatchState v) (exec i s)
  rcases hi with ⟨ch, freq, pwm, rfl⟩ | ⟨ch, duty, rfl⟩ | ⟨ch, duty, rfl⟩
  · cases hc : channelOf ch with
    | none => simp [exec, execPwmInit, hc, mapNext]
    | some n => simp [exec, execPwmInit, hc, mapNext, initialisePwm_setLatchState]
  · cases hc : channelOf ch with
    | none => simp [exec, execPwmSet, hc, mapNext]
    | some n => simp [exec, execPwmSet, hc, writeDuty_setLatchState]
  · cases hc : channelOf ch with
    | none => simp [exec, execSetSpeed, speed, hc, mapNext]
    | some n =>
      cases hk : s.cons.get n with
      | false => simp [exec, execSetSpeed, speed, hc, hk, mapNext]
      | true => simp [exec, execSetSpeed, speed, hc, hk, writeDuty_setLatchState]

/-! ## The history -/

/-- From s to t the history grew by at most k events (10_state.md R24). -/
def traceGrows (k : Nat) (s t : State) : Prop := ∃ es, t.trace = s.trace ++ es ∧ es.length ≤ k

theorem traceGrows_of_trace_eq {k : Nat} {s t : State} (h : t.trace = s.trace) : traceGrows k s t := ⟨[], by simp [h], by simp⟩

theorem traceGrows.mono {j k : Nat} {s t : State} (h : traceGrows j s t) (hjk : j ≤ k) : traceGrows k s t := by
  obtain ⟨es, he, hl⟩ := h
  exact ⟨es, he, hl.trans hjk⟩

theorem traceGrows.trans {j k : Nat} {s t u : State} (h : traceGrows j s t) (h' : traceGrows k t u) : traceGrows (j + k) s u := by
  obtain ⟨es, he, hl⟩ := h
  obtain ⟨es', he', hl'⟩ := h'
  exact ⟨es ++ es', by rw [he', he, List.append_assoc], by rw [List.length_append]; omega⟩

theorem txEvents_length (v : Byte) : (txEvents v).length = 26 := rfl

theorem traceGrows_afterTransmission {s t : State} (h : t.trace = s.trace) : traceGrows 26 s (afterTransmission t) :=
  ⟨_, by rw [afterTransmission_trace, h], by split <;> simp [txEvents_length]⟩

theorem traceGrows_afterEnable (P : Params) (s : State) : traceGrows 31 s (afterEnable P s) :=
  ⟨_, afterEnable_trace P s, by split <;> simp [txEvents_length]⟩

theorem traceGrows_constructionBase (P : Params) (s : State) : traceGrows 31 s (constructionBase P s) := by
  cases he : s.en with
  | true => rw [constructionBase_enabled P he]; exact traceGrows_of_trace_eq rfl
  | false => rw [constructionBase_fresh P he]; exact traceGrows_afterEnable P s

theorem traceGrows_initialisePwm (P : Params) (n : Channel) (freq : Byte) (pwm : Bool) (s : State) :
    traceGrows 3 s (initialisePwm P n freq pwm s) :=
  ⟨_, initialisePwm_trace P n freq pwm s, initialisationEvents_length P n freq pwm s⟩

/-- A construction that enables appends the most: 31 events, a burst of 26, and 3 of the initialisation (20_memory.md R41). -/
theorem Completes.grows_trace {i : Instr} {s t : State} (h : Completes i s t) : traceGrows 60 s t := by
  cases h with
  | enable => exact (traceGrows_afterEnable _ s).mono (by decide)
  | transmit | setState | setDir => exact (traceGrows_afterTransmission rfl).mono (by decide)
  | release => exact ⟨txEvents s.ls, rfl, by simp [txEvents_length]⟩
  | pwmInit => exact (traceGrows_initialisePwm ..).mono (by decide)
  | pwmSetHardware | pwmSetFallback | setSpeedHardware | setSpeedFallback => exact ⟨[_], rfl, by simp⟩
  | @construct _ n freq pwm =>
    have hbase := traceGrows_constructionBase Config.params s
    have hsent := traceGrows_afterTransmission
      (maskedUpdate_trace (constructionBase Config.params s) (channelMask Config.params n) 0#8)
    exact (hbase.trans hsent).trans (traceGrows_initialisePwm Config.params n freq pwm _)
  | constructInvalid => exact (traceGrows_constructionBase _ s).mono (by decide)
  | _ => exact traceGrows_of_trace_eq rfl

/-- Settles O46: issuing records nothing, and no command appends more than sixty events. -/
theorem historyGrowsBounded : Obligations.HistoryGrowsBounded := by
  unfold Obligations.HistoryGrowsBounded
  intro s t h
  rcases step_next h with ⟨-, rfl⟩ | ⟨w, rest, i, -, -, hc⟩
  · exact traceGrows_of_trace_eq rfl
  · exact hc.grows_trace

/-! ## The timer lists -/

/-- The form is one of the two lists alone. -/
theorem timersCanonical_of_eq {s t : State} (hs : timersCanonical s) (htinit : t.tinit = s.tinit) (htbase : t.tbase = s.tbase) :
    timersCanonical t := by
  rw [timersCanonical, htinit, htbase]
  exact hs

theorem timersCanonical_programBase (P : Params) (n : Channel) (freq : Byte) {s : State} (hs : timersCanonical s) :
    timersCanonical (programBase P n freq s) := by
  obtain ⟨htinit, hset, htbase⟩ := hs
  unfold programBase
  split
  · exact ⟨htinit, hset, htbase⟩
  · refine ⟨timerPut_rising _ _ _ htinit, fun e he => ?_, timerPut_rising _ _ _ htbase⟩
    rcases timerPut_mem _ _ _ e he with rfl | he
    · rfl
    · exact hset e he

theorem timersCanonical_initialisePwm (P : Params) (n : Channel) (freq : Byte) (pwm : Bool) {s : State}
    (hs : timersCanonical s) : timersCanonical (initialisePwm P n freq pwm s) := by
  cases pwm with
  | false => exact hs
  | true => exact timersCanonical_of_eq (timersCanonical_programBase P n freq hs) rfl rfl

/-- Every command that completes keeps the timer lists in their one form. -/
theorem Completes.keeps_timersCanonical {i : Instr} {s t : State} (h : Completes i s t) (hs : timersCanonical s) :
    timersCanonical t := by
  cases h with
  | pwmInit => exact timersCanonical_initialisePwm _ _ _ _ hs
  | construct => exact timersCanonical_initialisePwm _ _ _ _ (timersCanonical_of_eq hs (by simp) (by simp))
  | _ => exact timersCanonical_of_eq hs (by simp) (by simp)

/-- Settles O54: only an initialisation puts a timer into the lists, at its place and with its flag set. -/
theorem stepKeepsTimersCanonical : Obligations.StepKeepsTimersCanonical := by
  unfold Obligations.StepKeepsTimersCanonical
  intro s t hs h
  exact step_keeps (fun _ _ hs => hs) Completes.keeps_timersCanonical hs h

/-! ## Reset -/

/-- Settles O1: the values are those `State.reset` lists (10_state.md R26). -/
theorem resetValues : Obligations.ResetValues := by
  unfold Obligations.ResetValues
  refine ⟨rfl, rfl, fun t => rfl, fun n => ?_, fun p => ?_, rfl⟩
  · cases n <;> exact ⟨rfl, rfl⟩
  · cases p with
    | pwm n => cases n <;> exact ⟨rfl, rfl⟩
    | _ => exact ⟨rfl, rfl⟩

/-- At reset nothing is enabled, written, constructed, in a mode or programmed. -/
theorem reset_coherent (P : Params) : Coherent P State.reset := by
  obtain ⟨-, hen, htimer, hchannel, hpin, -⟩ := resetValues
  refine ⟨fun he => ?_, fun hw => ?_, fun p hw => ?_, fun n hk => ?_, fun n hm => ?_, fun n hm => ?_, fun t => ?_⟩
  · simp [hen] at he
  · simp [show State.reset.pinWritten.oe = false from (hpin .oe).2] at hw
  · simp [hpin p] at hw
  · simp [hchannel n] at hk
  · simp [hchannel n] at hm
  · simp [hchannel n] at hm
  · exact ⟨fun h => by simp [htimer t] at h, fun h => by cases h⟩

/-- Settles O52, from the reset values: the flags are 0 and the lists and the history empty. -/
theorem invariantsHoldAtReset : Obligations.InvariantsHoldAtReset := by
  unfold Obligations.InvariantsHoldAtReset
  obtain ⟨-, hen, htimer, -, -, htrace⟩ := resetValues
  refine ⟨reset_coherent Config.params, ?_, fun t _ => ?_, ?_, fun he => ?_, ?_⟩
  · simp [timersCanonical, State.reset]
  · simp [htrace, htimer t]
  · simp [outputEnableWrittenOnce, htrace, hen]
  · simp [hen] at he
  · simp [htrace, clockDisciplined]

end Sys2Proof.Machine

namespace Sys2Proof.Machine

/-! ## The clock discipline of the history -/

/-- Events that are clock-disciplined whatever comes before them, so that any disciplined history may go on with them
(20_memory.md R39). -/
def selfClocked (es : List Event) : Prop := ∀ before last, clockDisciplined before last es = true

/-- A disciplined history stays disciplined when self-clocked events follow it. -/
theorem clockDisciplined_append {xs ys : List Event} (hy : selfClocked ys) {before last : Option Event}
    (hx : clockDisciplined before last xs = true) : clockDisciplined before last (xs ++ ys) = true := by
  induction xs generalizing before last with
  | nil => exact hy before last
  | cons e xs ih =>
    obtain ⟨hfirst, hrest⟩ := Bool.and_eq_true_iff.mp hx
    exact Bool.and_eq_true_iff.mpr ⟨hfirst, ih hrest⟩

theorem selfClocked.append {xs ys : List Event} (hx : selfClocked xs) (hy : selfClocked ys) : selfClocked (xs ++ ys) :=
  fun before last => clockDisciplined_append hy (hx before last)

/-- Events none of which is a clock-high event are self-clocked. -/
theorem selfClocked_of_no_clockHigh {es : List Event} (h : Event.write .clk true ∉ es) : selfClocked es := by
  induction es with
  | nil => exact fun _ _ => rfl
  | cons e es ih =>
    obtain ⟨hne, hes⟩ := List.ne_and_not_mem_of_not_mem_cons h
    intro before last
    simp [clockDisciplined, hne.symm, ih hes last (some e)]

/-- The events of one bit hold the pattern the discipline asks for: clock low, data, clock high (40_latch_driver.md R62). -/
theorem selfClocked_bitEvents (b : Bool) : selfClocked (bitEvents b) := by
  intro before last
  cases b <;> simp [bitEvents, clockDisciplined]

theorem selfClocked_txEvents (v : Byte) : selfClocked (txEvents v) := by
  have hlatch (l : Bool) : selfClocked [.write .latch l] := selfClocked_of_no_clockHigh (by simp)
  have hbit (k : Nat) : selfClocked (bitEvents (v.getLsbD k)) := selfClocked_bitEvents _
  exact (hlatch false).append (hbit 7) |>.append (hbit 6) |>.append (hbit 5) |>.append (hbit 4) |>.append (hbit 3)
    |>.append (hbit 2) |>.append (hbit 1) |>.append (hbit 0) |>.append (hlatch true)

/-- A transmission's events are those of a burst, or none while held. -/
theorem selfClocked_gatedBurst (hold : Bool) (v : Byte) : selfClocked (if hold then [] else txEvents v) := by
  cases hold with
  | true => exact fun _ _ => rfl
  | false => exact selfClocked_txEvents v

theorem selfClocked_initialisationEvents (P : Params) (n : Channel) (freq : Byte) (pwm : Bool) (s : State) :
    selfClocked (initialisationEvents P n freq pwm s) := by
  apply selfClocked_of_no_clockHigh
  unfold initialisationEvents baseEvents
  split
  · split <;> simp
  · simp

/-- The history of the state is clock-disciplined (95_test_vectors.md 2.11, property 4). -/
def clocked (s : State) : Prop := clockDisciplined none none s.trace = true

theorem clocked.extend {s t : State} (hs : clocked s) {es : List Event} (ht : t.trace = s.trace ++ es)
    (hes : selfClocked es) : clocked t := by
  rw [clocked, ht]
  exact clockDisciplined_append hes hs

theorem clocked.of_trace_eq {s t : State} (hs : clocked s) (ht : t.trace = s.trace) : clocked t := by
  rwa [clocked, ht]

/-- A transmission of any LatchState keeps the discipline: the discipline speaks of the history alone. -/
theorem clocked.afterTransmission {s t : State} (hs : clocked s) (ht : t.trace = s.trace) : clocked (afterTransmission t) :=
  (hs.of_trace_eq ht).extend (afterTransmission_trace t) (selfClocked_gatedBurst _ _)

theorem clocked.afterEnable {s : State} (hs : clocked s) (P : Params) : clocked (afterEnable P s) :=
  hs.extend (afterEnable_trace P s) <|
    ((selfClocked_of_no_clockHigh (by simp)).append (selfClocked_gatedBurst _ _)).append
      (selfClocked_of_no_clockHigh (by simp))

theorem clocked.constructionBase {s : State} (hs : clocked s) (P : Params) : clocked (constructionBase P s) := by
  cases he : s.en with
  | true => rwa [constructionBase_enabled P he]
  | false => rw [constructionBase_fresh P he]; exact hs.afterEnable P

theorem clocked.initialisePwm {s : State} (hs : clocked s) (P : Params) (n : Channel) (freq : Byte) (pwm : Bool) :
    clocked (initialisePwm P n freq pwm s) :=
  hs.extend (initialisePwm_trace P n freq pwm s) (selfClocked_initialisationEvents P n freq pwm s)

/-- Every command that completes keeps the discipline: clock-high events are sent by bursts only. -/
theorem Completes.keeps_clocked {i : Instr} {s t : State} (h : Completes i s t) (hs : clocked s) : clocked t := by
  cases h with
  | enable => exact hs.afterEnable _
  | release => exact hs.extend (afterBurst_trace (setHold false s)) (selfClocked_txEvents _)
  | transmit | setState | setDir => exact hs.afterTransmission rfl
  | pwmInit => exact hs.initialisePwm ..
  | pwmSetHardware | pwmSetFallback | setSpeedHardware | setSpeedFallback =>
    exact hs.extend rfl (selfClocked_of_no_clockHigh (by simp))
  | @construct _ n freq pwm =>
    have hsent := (hs.constructionBase Config.params).afterTransmission
      (maskedUpdate_trace (constructionBase Config.params s) (channelMask Config.params n) 0#8)
    exact (hsent.initialisePwm Config.params n freq pwm).of_trace_eq (recordChannel_trace ..)
  | constructInvalid => exact hs.constructionBase _
  | updateBits | hold | getState => exact hs.of_trace_eq rfl
  | pwmInitInvalid | pwmSetInvalid | setDirInvalid | setSpeedInvalid => exact hs

/-- Settles O57: issuing records nothing, and what a command appends is clock-disciplined whatever came before it. -/
theorem stepKeepsClockDiscipline : Obligations.StepKeepsClockDiscipline := by
  unfold Obligations.StepKeepsClockDiscipline
  intro s t hs h
  exact step_keeps (I := clocked) (fun _ _ hu => hu) Completes.keeps_clocked hs h

/-! ## What a burst carries -/

/-- At the rising clock edges of a burst stand the bits, most significant first, whatever the levels before: the first clock write
is low (20_memory.md R30). -/
theorem risingSamples_txEvents (clk data : Bool) (v : Byte) : risingSamples clk data (txEvents v) = [v.getLsbD 7,
    v.getLsbD 6, v.getLsbD 5, v.getLsbD 4, v.getLsbD 3, v.getLsbD 2, v.getLsbD 1, v.getLsbD 0] := rfl

theorem countP_clockHigh_txEvents (v : Byte) : (txEvents v).countP (· == .write .clk true) = 8 := by
  simp [txEvents, bitEvents]

theorem burstCount_txEvents (v : Byte) : burstCount (txEvents v) = 1 := by
  simp [burstCount, txEvents, bitEvents]

/-- Settles O14: the events a transmission appends are `txEvents` of LatchState. -/
theorem burstCarriesMostSignificantFirst : Obligations.BurstCarriesMostSignificantFirst := by
  unfold Obligations.BurstCarriesMostSignificantFirst
  intro s hh hready
  have hexec : exec .transmit s = .next (afterBurst s) :=
    exec_transmit_next.mpr ⟨fun _ => hready, (afterTransmission_free hh).symm⟩
  exact ⟨afterBurst s, txEvents s.ls, hexec, afterBurst_trace s, fun clk data => risingSamples_txEvents clk data s.ls,
    countP_clockHigh_txEvents s.ls, rfl, rfl, burstCount_txEvents s.ls⟩

/-! ## The hold flag gates bursts only -/

theorem programBase_setHold (P : Params) (n : Channel) (freq : Byte) (b : Bool) (s : State) :
    programBase P n freq (setHold b s) = setHold b (programBase P n freq s) := by
  by_cases hdue : timerShared P (channelTimer P n) = true → timerInitialised (channelTimer P n) s = false
  · rw [programBase_due freq hdue, programBase_due (s := setHold b s) freq hdue]
    rfl
  · obtain ⟨hs, hi⟩ := Classical.not_imp.mp hdue
    rw [Bool.not_eq_false] at hi
    rw [programBase_done freq hs hi, programBase_done (s := setHold b s) freq hs hi]

/-- An initialisation does the same whatever the hold flag is (41_timer_backend.md R81). -/
theorem initialisePwm_setHold (P : Params) (n : Channel) (freq : Byte) (pwm b : Bool) (s : State) :
    initialisePwm P n freq pwm (setHold b s) = setHold b (initialisePwm P n freq pwm s) := by
  cases pwm with
  | false => rfl
  | true => simp only [initialisePwm, if_true, programBase_setHold]; rfl

/-- Setting a duty does the same whatever the hold flag is, where it completes and where it is refused
(70_reset_and_hazards.md R130). -/
theorem writeDuty_setHold (P : Params) (n : Channel) (duty : Byte) (b : Bool) (s : State) :
    writeDuty P n duty (setHold b s) = mapNext (setHold b) (writeDuty P n duty s) := by
  cases hm : s.pmode.get n with
  | unconfigured => simp [writeDuty, hm, mapNext]
  | pwm => simp only [writeDuty, setHold_pmode, hm]; rfl
  | digital =>
    cases hd : s.pinDir.get (.pwm n) with
    | unconfigured => simp [writeDuty, pinWrite, hm, hd, mapNext]
    | output => simp only [writeDuty, pinWrite, setHold_pmode, setHold_pinDir, hm, hd]; rfl

/-- Settles O41: none of the commands transmits; what each does to a valid channel is an initialisation or a duty. -/
theorem holdGatesBurstsOnly : Obligations.HoldGatesBurstsOnly := by
  unfold Obligations.HoldGatesBurstsOnly
  intro b i s hi
  show exec i (setHold b s) = mapNext (setHold b) (exec i s)
  rcases hi with ⟨ch, freq, pwm, rfl⟩ | ⟨ch, duty, rfl⟩ | ⟨ch, duty, rfl⟩ | ⟨m, v, rfl⟩ | rfl
  · cases hc : channelOf ch with
    | none => simp [exec, execPwmInit, hc, mapNext]
    | some n => simp [exec, execPwmInit, hc, mapNext, initialisePwm_setHold]
  · cases hc : channelOf ch with
    | none => simp [exec, execPwmSet, hc, mapNext]
    | some n => simp [exec, execPwmSet, hc, writeDuty_setHold]
  · cases hc : channelOf ch with
    | none => simp [exec, execSetSpeed, speed, hc, mapNext]
    | some n =>
      cases hk : s.cons.get n with
      | false => simp [exec, execSetSpeed, speed, hc, hk, mapNext]
      | true => simp [exec, execSetSpeed, speed, hc, hk, writeDuty_setHold]
  · rfl
  · rfl

/-! ## The output-enable line -/

/-- The base of a construction has another output-enable line or drive only where it was made by enabling. -/
theorem fresh_of_constructionBase_outputs {P : Params} {s : State}
    (h : (constructionBase P s).pinLvl.oe ≠ s.pinLvl.oe ∨ (constructionBase P s).qen ≠ s.qen) : s.en = false := by
  cases he : s.en with
  | false => rfl
  | true => simp [constructionBase_enabled P he] at h

/-- Settles O47, by cases on the command: only `afterEnable`, in `ENABLE` and in the base of a construction, touches the line or the
drive. -/
theorem outputEnableOnlyByEnabling : Obligations.OutputEnableOnlyByEnabling := by
  unfold Obligations.OutputEnableOnlyByEnabling
  intro i s t h hchanged
  cases exec_completes h with
  | enable fresh => exact ⟨fresh, by simp, .inl rfl⟩
  | construct =>
    exact ⟨fresh_of_constructionBase_outputs (P := Config.params) (by simpa using hchanged), by simp, .inr ⟨_, _, _, rfl⟩⟩
  | constructInvalid => exact ⟨fresh_of_constructionBase_outputs hchanged, by simp, .inr ⟨_, _, _, rfl⟩⟩
  | _ => simp [PerPin.set] at hchanged

end Sys2Proof.Machine

namespace Sys2Proof

/-! ## Fields whose upper bits are fixed at zero -/

/-- A value whose upper n bits are zero is its lower k bits behind n zeros. -/
theorem eq_zero_append_of_upper_zero {n k : Nat} {x : BitVec (n + k)} (h : x.extractLsb' k n = 0#n) :
    x = 0#n ++ x.extractLsb' 0 k := by
  rw [← h, BitVec.extractLsb'_append_extractLsb']

/-- Masking with n ones over k zeros clears a value exactly when its upper n bits are zero. -/
theorem and_upperOnes_eq_zero {n k : Nat} {x : BitVec (n + k)} :
    x &&& (BitVec.allOnes n ++ 0#k) = 0#(n + k) ↔ x.extractLsb' k n = 0#n := by
  have hx : x = x.extractLsb' k n ++ x.extractLsb' 0 k := BitVec.extractLsb'_append_extractLsb'.symm
  rw [hx, BitVec.and_append, BitVec.and_allOnes, BitVec.and_zero, ← BitVec.zero_append_zero, BitVec.append_left_inj,
    BitVec.extractLsb'_append_eq_left]

theorem pwmField_eq_append (pwm : Bool) : pwmField pwm = 0#7 ++ BitVec.ofBool pwm := by
  cases pwm <;> rfl

@[simp] theorem pwmField_upper (pwm : Bool) : (pwmField pwm).extractLsb' 1 7 = 0#7 := by
  rw [pwmField_eq_append]
  exact BitVec.extractLsb'_append_eq_left

@[simp] theorem pwmField_flag (pwm : Bool) : (pwmField pwm)[0] = pwm := by
  cases pwm <;> rfl

@[simp] theorem dirField_upper (dir : Direction) : (dirField dir).extractLsb' 2 6 = 0#6 :=
  BitVec.extractLsb'_append_eq_left

@[simp] theorem dirField_code (dir : Direction) : (dirField dir).extractLsb' 0 2 = dir.code :=
  BitVec.extractLsb'_append_eq_right

/-- A `c` field with bits 7:1 zero is its flag's field (30_encoding.md R48). -/
theorem pwmField_of_upper_zero {c : Byte} (h : c.extractLsb' 1 7 = 0#7) : pwmField (c.getLsbD 0) = c := by
  rw [pwmField_eq_append, ← BitVec.setWidth_one, BitVec.setWidth_eq_extractLsb' (by decide)]
  exact (eq_zero_append_of_upper_zero (n := 7) h).symm

/-- A `b` field with bits 7:2 zero is the field of the direction its code names (30_encoding.md R48, R50). -/
theorem dirField_of_upper_zero {b : Byte} {dir : Direction} (h : b.extractLsb' 2 6 = 0#6)
    (hd : Direction.ofCode (b.extractLsb' 0 2) = some dir) : dirField dir = b := by
  rw [dirField, ofCode_eq_some hd]
  exact (eq_zero_append_of_upper_zero (n := 6) h).symm

/-- Only the code 0b11 names no direction (30_encoding.md R50). -/
theorem ofCode_eq_none {r : BitVec 2} (h : Direction.ofCode r = none) : r = 0b11#2 := by
  revert h; revert r
  decide

/-! ## The decoder and the encoder, field by field -/

theorem whenUnusedZero_eq_legal {unused : Bool} {i j : Instr} :
    whenUnusedZero unused i = .legal j ↔ unused = true ∧ i = j := by
  cases unused <;> simp [whenUnusedZero]

theorem decode_toWord (f : Fields) : decode f.toWord = decodeFields f := by
  rw [decode, ofWord_toWord]

theorem encode_eq_iff {i : Instr} {w : Word} : encode i = w ↔ encodeFields i = Fields.ofWord w := by
  rw [encode, ← toWord_inj, toWord_ofWord]

theorem decodeFields_encodeFields (i : Instr) : decodeFields (encodeFields i) = .legal i := by
  cases i with
  | pwmInit ch freq pwm | construct ch freq pwm => simp [decodeFields, encodeFields, whenUnusedZero]
  | setDir ch dir => simp [decodeFields, encodeFields, ofCode_code, whenUnusedZero]
  | _ => rfl

/-- Fields that decode are the fields of what they decode to: each arm of the decoder, here numbered by its opcode, has checked
every field its operation does not keep. -/
theorem encodeFields_of_decodeFields {f : Fields} {i : Instr} (h : decodeFields f = .legal i) : encodeFields i = f := by
  obtain ⟨op, a, b, c⟩ := f
  simp only [decodeFields] at h
  split at h
  case h_11 =>
    split at h
    case h_1 dir hdir =>
      simp only [whenUnusedZero_eq_legal, Bool.and_eq_true, beq_iff_eq] at h
      obtain ⟨⟨hb, rfl⟩, rfl⟩ := h
      rw [encodeFields, dirField_of_upper_zero hb hdir]
    case h_2 => cases h
  case h_13 => cases h
  all_goals simp only [whenUnusedZero_eq_legal, Bool.and_eq_true, beq_iff_eq] at h
  case h_1 | h_3 | h_4 | h_5 | h_6 => obtain ⟨⟨⟨rfl, rfl⟩, rfl⟩, rfl⟩ := h; rfl
  case h_2 | h_9 | h_12 => obtain ⟨rfl, rfl⟩ := h; rfl
  case h_7 => obtain ⟨⟨rfl, rfl⟩, rfl⟩ := h; rfl
  case h_8 | h_10 =>
    obtain ⟨hc, rfl⟩ := h
    rw [encodeFields, pwmField_of_upper_zero hc]

/-- Settles O4, from the round trip of the fields. -/
theorem decodeInvertsEncode : Obligations.DecodeInvertsEncode := by
  unfold Obligations.DecodeInvertsEncode
  intro i
  rw [encode, decode_toWord, decodeFields_encodeFields]

/-- Settles O5, from the other round trip of the fields. -/
theorem encodeInvertsDecode : Obligations.EncodeInvertsDecode := by
  unfold Obligations.EncodeInvertsDecode
  intro w i h
  exact encode_eq_iff.mpr (encodeFields_of_decodeFields h)

/-- A word decodes exactly when it is an operation's word (30_encoding.md R59). -/
theorem decode_eq_legal {w : Word} {i : Instr} : decode w = .legal i ↔ encode i = w :=
  ⟨encodeInvertsDecode w i, fun h => h ▸ decodeInvertsEncode i⟩

/-! ## The opcode map, field by field -/

/-- The opcode a row of the opcode map is for. -/
def OpcodeRow.opcode (r : OpcodeRow) : Byte := (Fields.ofWord r.matchBits).op

theorem spells_toWord {r : OpcodeRow} {f : Fields} :
    r.spells f.toWord = true ↔
      f.op &&& (Fields.ofWord r.maskBits).op = (Fields.ofWord r.matchBits).op ∧
      f.a &&& (Fields.ofWord r.maskBits).a = (Fields.ofWord r.matchBits).a ∧
      f.b &&& (Fields.ofWord r.maskBits).b = (Fields.ofWord r.matchBits).b ∧
      f.c &&& (Fields.ofWord r.maskBits).c = (Fields.ofWord r.matchBits).c := by
  rw [OpcodeRow.spells, beq_iff_eq, ← toWord_ofWord r.maskBits, ← toWord_ofWord r.matchBits, toWord_and, toWord_inj]
  simp only [ofWord_toWord]
  exact Iff.of_eq (Fields.mk.injEq ..)

theorem opcode_mask : ∀ r ∈ opcodeRows, (Fields.ofWord r.maskBits).op = BitVec.allOnes 8 := by decide

theorem opcodes_nodup : (opcodeRows.map OpcodeRow.opcode).Nodup := by decide

/-- Every row fixes the whole opcode field. -/
theorem op_of_spells {r : OpcodeRow} {w : Word} (hr : r ∈ opcodeRows) (h : r.spells w = true) :
    (Fields.ofWord w).op = r.opcode := by
  rw [← toWord_ofWord w] at h
  obtain ⟨hop, -⟩ := spells_toWord.mp h
  rwa [opcode_mask r hr, BitVec.and_allOnes] at hop

/-- Settles O7: two rows that match one word have its opcode, and no two rows have one opcode. -/
theorem opcodeRowsDisjoint : Obligations.OpcodeRowsDisjoint := by
  unfold Obligations.OpcodeRowsDisjoint
  intro w r r' hr hr' h h'
  exact List.inj_on_of_nodup_map opcodes_nodup hr hr' ((op_of_spells hr h).symm.trans (op_of_spells hr' h'))

theorem and_fullMask (x : Byte) : x &&& 0xFF#8 = x := BitVec.and_allOnes

theorem exists_pwmField {c : Byte} (h : c &&& 0xFE#8 = 0#8) : ∃ pwm, pwmField pwm = c :=
  ⟨c.getLsbD 0, pwmField_of_upper_zero ((and_upperOnes_eq_zero (n := 7) (k := 1)).mp h)⟩

/-- A masked `b` field without the reserved code is a direction's (30_encoding.md R50). -/
theorem exists_dirField {b : Byte} (h : b &&& 0xFC#8 = 0#8) (hd : b &&& 0x03#8 ≠ 0x03#8) : ∃ dir, dirField dir = b := by
  have hb : b.extractLsb' 2 6 = 0#6 := (and_upperOnes_eq_zero (n := 6) (k := 2)).mp h
  cases hc : Direction.ofCode (b.extractLsb' 0 2) with
  | some dir => exact ⟨dir, dirField_of_upper_zero hb hc⟩
  | none =>
    have hres : b = 0#6 ++ b.extractLsb' 0 2 := eq_zero_append_of_upper_zero (n := 6) hb
    rw [ofCode_eq_none hc] at hres
    exact absurd (by rw [hres]; rfl) hd

theorem directionAllowed_setDir {a b c : Byte} (h : directionAllowed (Fields.toWord ⟨0x0B#8, a, b, c⟩) = true) :
    b &&& 0x03#8 ≠ 0x03#8 := by
  have hop : (0xFF000000#32 : Word) = Fields.toWord ⟨0xFF#8, 0#8, 0#8, 0#8⟩ := by decide
  have hset : (0x0B000000#32 : Word) = Fields.toWord ⟨0x0B#8, 0#8, 0#8, 0#8⟩ := by decide
  have hdir : (0x00000300#32 : Word) = Fields.toWord ⟨0#8, 0#8, 0x03#8, 0#8⟩ := by decide
  simpa [directionAllowed, hop, hset, hdir, toWord_and, toWord_inj] using h

/-- Fields that match a row of the opcode map without the reserved direction are an operation's: the bits the row leaves open are
its operands. -/
theorem exists_encodeFields_of_spells {r : OpcodeRow} {f : Fields} (hr : r ∈ opcodeRows) (h : r.spells f.toWord = true)
    (hd : directionAllowed f.toWord = true) : ∃ i, encodeFields i = f := by
  obtain ⟨op, a, b, c⟩ := f
  rw [spells_toWord] at h
  simp only [opcodeRows, List.mem_cons, List.not_mem_nil, or_false] at hr
  rcases hr with rfl | rfl | rfl | rfl | rfl | rfl | rfl | rfl | rfl | rfl | rfl | rfl <;>
    simp only [Fields.ofWord, BitVec.reduceExtractLsb', and_fullMask, BitVec.and_zero, true_and] at h
  · obtain ⟨rfl, rfl, rfl, rfl⟩ := h; exact ⟨.enable, rfl⟩
  · obtain ⟨rfl, rfl⟩ := h; exact ⟨.updateBits a b, rfl⟩
  · obtain ⟨rfl, rfl, rfl, rfl⟩ := h; exact ⟨.transmit, rfl⟩
  · obtain ⟨rfl, rfl, rfl, rfl⟩ := h; exact ⟨.hold, rfl⟩
  · obtain ⟨rfl, rfl, rfl, rfl⟩ := h; exact ⟨.release, rfl⟩
  · obtain ⟨rfl, rfl, rfl, rfl⟩ := h; exact ⟨.getState, rfl⟩
  · obtain ⟨rfl, rfl, rfl⟩ := h; exact ⟨.setState a, rfl⟩
  · obtain ⟨rfl, hc⟩ := h
    obtain ⟨pwm, rfl⟩ := exists_pwmField hc
    exact ⟨.pwmInit a b pwm, rfl⟩
  · obtain ⟨rfl, rfl⟩ := h; exact ⟨.pwmSet a b, rfl⟩
  · obtain ⟨rfl, hc⟩ := h
    obtain ⟨pwm, rfl⟩ := exists_pwmField hc
    exact ⟨.construct a b pwm, rfl⟩
  · obtain ⟨rfl, hb, rfl⟩ := h
    obtain ⟨dir, rfl⟩ := exists_dirField hb (directionAllowed_setDir hd)
    exact ⟨.setDir a dir, rfl⟩
  · obtain ⟨rfl, rfl⟩ := h; exact ⟨.setSpeed a b, rfl⟩

theorem wellFormedWord_encode (i : Instr) : wellFormedWord (encode i) = true := by
  cases i with
  | enable => exact Laws.LegalEncoding.enable
  | updateBits mask value => exact Laws.LegalEncoding.updateBits mask value
  | transmit => exact Laws.LegalEncoding.transmit
  | hold => exact Laws.LegalEncoding.hold
  | release => exact Laws.LegalEncoding.release
  | getState => exact Laws.LegalEncoding.getState
  | setState value => exact Laws.LegalEncoding.setState value
  | pwmInit ch freq pwm => exact Laws.LegalEncoding.pwmInit ch freq pwm
  | pwmSet ch duty => exact Laws.LegalEncoding.pwmSet ch duty
  | construct ch freq pwm => exact Laws.LegalEncoding.construct ch freq pwm
  | setDir ch dir => exact Laws.LegalEncoding.setDir ch dir
  | setSpeed ch duty => exact Laws.LegalEncoding.setSpeed ch duty

/-- Settles O6: the words that decode are the operations' words, and the words of the opcode map are the same. -/
theorem decodeAcceptsOpcodeMap : Obligations.DecodeAcceptsOpcodeMap := by
  unfold Obligations.DecodeAcceptsOpcodeMap
  intro w
  simp only [decode_eq_legal]
  constructor
  · rintro ⟨i, rfl⟩
    exact wellFormedWord_encode i
  · intro h
    simp only [wellFormedWord, Bool.and_eq_true, List.any_eq_true] at h
    obtain ⟨⟨r, hr, hspells⟩, hdir⟩ := h
    rw [← toWord_ofWord w] at hspells hdir
    obtain ⟨i, hi⟩ := exists_encodeFields_of_spells hr hspells hdir
    exact ⟨i, encode_eq_iff.mpr hi⟩

/-- Settles O2: each word is a literal, decoded by evaluation. -/
theorem specWordsDecode : Obligations.SpecWordsDecode := by
  unfold Obligations.SpecWordsDecode
  decide

end Sys2Proof

namespace Sys2Proof.Machine

/-! ## Stepping and the response port -/

theorem step_idle {s : State} (h : s.commands = []) : step s = .next s := by
  simp [step, issue, h]

theorem step_legal {s : State} {w : Word} {rest : List Word} {i : Instr} (h : s.commands = w :: rest)
    (hd : decode w = .legal i) : step s = exec i { s with commands := rest, response := none } := by
  simp [step, issue, h, hd]

theorem step_illegal {s : State} {w : Word} {rest : List Word} {why : IllegalReason} (h : s.commands = w :: rest)
    (hd : decode w = .illegal why) : step s = .refused .illegalCommand := by
  simp [step, issue, h, hd]

/-- Settles O3, one clause for each way a step can go. -/
theorem stepRunsDecodedCommand : Obligations.StepRunsDecodedCommand := by
  unfold Obligations.StepRunsDecodedCommand
  intro s
  exact ⟨step_idle, fun w rest h => ⟨fun i => step_legal h, fun why => step_illegal h⟩⟩

/-- Settles O40, by cases on the command: `respond` is the only update that touches the port or the record, and `GETSTATE` alone
uses it. -/
theorem onlyGetStateResponds : Obligations.OnlyGetStateResponds := by
  unfold Obligations.OnlyGetStateResponds
  intro i s t h
  cases exec_completes h with
  | getState => exact ⟨rfl, rfl⟩
  | _ => simp

end Sys2Proof.Machine

namespace Sys2Proof.Machine

/-! ## One transmission, refused and small-step -/

/-- A transmission that is not held and finds a serial line unconfigured is refused for such a line (40_latch_driver.md R62; D13). -/
theorem transmission_unready (P : Params) {s : State} (hh : s.hold = false) (hr : ¬ serialReady s) :
    ∃ p, transmission P s = .refused (.pinNotConfigured p) ∧ s.pinDir.get p = .unconfigured := by
  refine ⟨_, (transmission_free P hh).trans (burst_unready P hr), ?_⟩
  cases hl : s.pinDir.latch with
  | unconfigured => simp [PerPin.get, hl]
  | output =>
    cases hc : s.pinDir.clk with
    | unconfigured => simp [PerPin.get, hc]
    | output =>
      cases hd : s.pinDir.data with
      | unconfigured => simp [PerPin.get, hd]
      | output => exact absurd ⟨hd, hc, hl⟩ hr

/-- The chip's observer changes the chip's side only: it leaves LatchState as it is (60_exceptions.md R108). -/
@[simp] theorem observe_ls (P : Params) (p : Pin) (l : Bool) (s : State) : (observe P p l s).ls = s.ls := by
  cases p with
  | clk => simp [observe, observeClock, apply_ite State.ls]
  | latch => simp [observe, observeLatch, apply_ite State.ls]
  | data | oe | pwm n => rfl

theorem pinWrite_ls {P : Params} {p : Pin} {l : Bool} {s t : State} (h : pinWrite P p l s = .next t) : t.ls = s.ls := by
  obtain ⟨-, rfl⟩ := pinWrite_eq_next.mp h
  simp

/-- Two continuations that agree on every state the first part can leave make one sequence. -/
theorem andThen_congr {r : Result} {f g : State → Result} (h : ∀ s, r = .next s → f s = g s) : andThen r f = andThen r g := by
  cases r with
  | next s => exact h s rfl
  | fault | refused => rfl

/-- Small steps read LatchState anew each time, and find the one the burst started with: a pin write leaves it alone
(40_latch_driver.md R70). -/
theorem burstSteps_eq_pinWrites (P : Params) (seqs : List Nat) (s : State) :
    burstSteps P seqs s = pinWrites P (seqs.map (burstStepWrite s.ls)) s := by
  induction seqs generalizing s with
  | nil => rfl
  | cons seq seqs ih =>
    refine andThen_congr fun t ht => ?_
    rw [ih t, pinWrite_ls ht]

/-- The 26 positions of the small-step form spell the writes of a burst, in order (40_latch_driver.md R62, R70). -/
theorem map_burstStepWrite_range (v : Byte) : (List.range 26).map (burstStepWrite v) = burstWrites v := rfl

/-! ## A hold window -/

/-- From s to t nothing was written on a serial line, and the chip's two stages are as they were (40_latch_driver.md R69). -/
def serialSilent (s t : State) : Prop :=
  t.sr = s.sr ∧ t.q = s.q ∧ ∃ es, t.trace = s.trace ++ es ∧ es.all (fun e => !isSerialWrite e) = true

theorem serialSilent_of_eq {s t : State} (hsr : t.sr = s.sr) (hq : t.q = s.q) (ht : t.trace = s.trace) : serialSilent s t :=
  ⟨hsr, hq, [], by simp [ht], rfl⟩

theorem serialSilent.trans {s t u : State} (h : serialSilent s t) (h' : serialSilent t u) : serialSilent s u := by
  obtain ⟨hsr, hq, es, he, hs⟩ := h
  obtain ⟨hsr', hq', es', he', hs'⟩ := h'
  exact ⟨hsr'.trans hsr, hq'.trans hq, es ++ es', by rw [he', he, List.append_assoc], by rw [List.all_append, hs, hs']; rfl⟩

/-- The enabling inside a hold window leaves the chip's two stages as they were: it sends no burst (D14). -/
theorem afterEnable_chip_held (P : Params) {s : State} (hh : s.hold = true) :
    (afterEnable P s).sr = s.sr ∧ (afterEnable P s).q = s.q := by
  simp [afterEnable, afterTransmission, hh]

/-- The enabling inside a hold window configures the control lines and writes the output-enable line only
(40_latch_driver.md R60, D14). -/
theorem serialSilent_afterEnable (P : Params) {s : State} (hh : s.hold = true) : serialSilent s (afterEnable P s) := by
  obtain ⟨hsr, hq⟩ := afterEnable_chip_held P hh
  exact ⟨hsr, hq, _, afterEnable_trace P s, by simp [hh, isSerialWrite]⟩

theorem serialSilent_constructionBase (P : Params) {s : State} (hh : s.hold = true) :
    serialSilent s (constructionBase P s) := by
  cases he : s.en with
  | true => rw [constructionBase_enabled P he]; exact serialSilent_of_eq rfl rfl rfl
  | false => rw [constructionBase_fresh P he]; exact serialSilent_afterEnable P hh

theorem serialSilent_initialisePwm (P : Params) (n : Channel) (freq : Byte) (pwm : Bool) (s : State) :
    serialSilent s (initialisePwm P n freq pwm s) := by
  refine ⟨by simp, by simp, _, initialisePwm_trace P n freq pwm s, ?_⟩
  unfold initialisationEvents baseEvents
  split
  · split <;> simp [isSerialWrite]
  · simp [isSerialWrite]

/-- A held transmission of any LatchState is silent. -/
theorem serialSilent_afterTransmission {s t : State} (hh : t.hold = true) (h : serialSilent s t) :
    serialSilent s (afterTransmission t) := by
  rwa [afterTransmission_held hh]

/-- Every command but `RELEASE` that completes in a held block is silent on the serial lines (40_latch_driver.md R69). -/
theorem Completes.serialSilent_of_held {i : Instr} {s t : State} (h : Completes i s t) (hh : s.hold = true)
    (hi : i ≠ .release) : serialSilent s t := by
  cases h with
  | enable => exact serialSilent_afterEnable _ hh
  | release => exact absurd rfl hi
  | transmit | setState | setDir => exact serialSilent_afterTransmission hh (serialSilent_of_eq rfl rfl rfl)
  | pwmInit => exact serialSilent_initialisePwm ..
  | pwmSetHardware | pwmSetFallback | setSpeedHardware | setSpeedFallback => exact ⟨rfl, rfl, [_], rfl, rfl⟩
  | @construct _ n freq pwm =>
    have hbase := serialSilent_constructionBase Config.params hh
    have hsent : serialSilent s (afterTransmission
        (maskedUpdate (channelMask Config.params n) 0#8 (constructionBase Config.params s))) :=
      serialSilent_afterTransmission (by simpa using hh) (hbase.trans (serialSilent_of_eq rfl rfl rfl))
    exact hsent.trans (serialSilent_initialisePwm Config.params n freq pwm _)
  | constructInvalid => exact serialSilent_constructionBase _ hh
  | updateBits | hold | getState | pwmInitInvalid | pwmSetInvalid | setDirInvalid | setSpeedInvalid =>
    exact serialSilent_of_eq rfl rfl rfl

/-- A command but `RELEASE` keeps a hold window open (10_state.md R14). -/
theorem hold_of_exec_next {i : Instr} {s t : State} (h : exec i s = .next t) (hi : i ≠ .release) (hh : s.hold = true) :
    t.hold = true := by
  rw [holdFlagWriters i s t h, if_neg hi, hh, ite_self]

/-- A predicate that every listed command keeps is kept by the run of the list (70_reset_and_hazards.md R135). -/
theorem runInstrs_keeps {I : State → Prop} {is : List Instr}
    (kept : ∀ i ∈ is, ∀ {s t : State}, exec i s = .next t → I s → I t) {s t : State} (hs : I s)
    (h : runInstrs is s = .next t) : I t := by
  induction is generalizing s with
  | nil => obtain rfl := next_eq_next.mp h; exact hs
  | cons i is ih =>
    obtain ⟨u, hu, ht⟩ := andThen_eq_next.mp h
    exact ih (fun j hj => kept j (List.mem_cons_of_mem i hj)) (kept i List.mem_cons_self hu hs) ht

/-- A run without `RELEASE` keeps the hold window open and is silent on the serial lines (40_latch_driver.md R69). -/
theorem runInstrs_serialSilent {is : List Instr} {s t : State} (hh : s.hold = true) (his : Instr.release ∉ is)
    (h : runInstrs is s = .next t) : t.hold = true ∧ serialSilent s t := by
  refine runInstrs_keeps (I := fun u => u.hold = true ∧ serialSilent s u) ?_ ⟨hh, serialSilent_of_eq rfl rfl rfl⟩ h
  rintro i hi u v huv ⟨hu, hsu⟩
  have hne : i ≠ .release := fun he => his (he ▸ hi)
  exact ⟨hold_of_exec_next huv hne hu, hsu.trans ((exec_completes huv).serialSilent_of_held hu hne)⟩

/-- Settles O48: the window is an invariant of the run, and the `RELEASE` after it is one burst. -/
theorem holdWindowSendsOneBurst : Obligations.HoldWindowSendsOneBurst := by
  unfold Obligations.HoldWindowSendsOneBurst
  intro is s t hh his h
  obtain ⟨hold, hsr, hq, hsilent⟩ := runInstrs_serialSilent hh his h
  exact ⟨hold, hsr, hq, hsilent, fun hr => ⟨_, exec_release_next.mpr ⟨hr, rfl⟩, rfl, rfl, rfl⟩⟩

/-! ## The LatchDriver's commands -/

/-- Settles O9: enabling a block not held sends the burst of the cleared LatchState. -/
theorem enableConfiguresAndClears : Obligations.EnableConfiguresAndClears := by
  unfold Obligations.EnableConfiguresAndClears
  intro s he hh
  refine exec_enable_next.mpr ⟨he, ?_⟩
  simp [afterEnable, afterTransmission, afterBurst, hh]

/-- Settles O10: enabling a held block leaves out the burst. -/
theorem enableHeldSendsNoBurst : Obligations.EnableHeldSendsNoBurst := by
  unfold Obligations.EnableHeldSendsNoBurst
  intro s he hh
  refine exec_enable_next.mpr ⟨he, ?_⟩
  simp [afterEnable, afterTransmission, hh]

/-- Settles O12: the next state written out is `s` while held and `afterBurst s` else. -/
theorem transmitSendsOneBurst : Obligations.TransmitSendsOneBurst := by
  unfold Obligations.TransmitSendsOneBurst
  intro s
  exact ⟨fun hh => transmission_held Config.params hh,
    fun hh hr => exec_transmit_next.mpr ⟨fun _ => hr, (afterTransmission_free hh).symm⟩⟩

/-- Settles O13: each of the three is a transmission from a state with the same pin directions and the hold flag clear. -/
theorem unconfiguredLinesRefused : Obligations.UnconfiguredLinesRefused := by
  unfold Obligations.UnconfiguredLinesRefused
  intro s hr
  exact ⟨fun hh => transmission_unready Config.params hh hr,
    fun v hh => transmission_unready Config.params (s := setLatchState v s) hh hr,
    transmission_unready Config.params (s := setHold false s) rfl hr⟩

/-- Settles O15: the small steps are the burst's pin writes. -/
theorem smallStepsMakeTheBurst : Obligations.SmallStepsMakeTheBurst := by
  unfold Obligations.SmallStepsMakeTheBurst
  intro s hh
  calc exec .transmit s
    _ = pinWrites Config.params (burstWrites s.ls) s := transmission_free Config.params hh
    _ = burstSteps Config.params (List.range 26) s := by rw [burstSteps_eq_pinWrites, map_burstStepWrite_range]

/-- Settles O17: the next state written out is `afterBurst` of the state with the flag cleared. -/
theorem releaseAlwaysFlushes : Obligations.ReleaseAlwaysFlushes := by
  unfold Obligations.ReleaseAlwaysFlushes
  intro s hr
  exact exec_release_next.mpr ⟨hr, rfl⟩

/-- Settles O19: a transmission of the state with the new LatchState, held or not. -/
theorem setStateWritesAndTransmits : Obligations.SetStateWritesAndTransmits := by
  unfold Obligations.SetStateWritesAndTransmits
  intro v s
  exact ⟨fun hh => transmission_held Config.params (s := setLatchState v s) hh,
    fun hh hr => exec_setState_next.mpr ⟨fun _ => hr, (afterTransmission_free (s := setLatchState v s) hh).symm⟩⟩

/-- The word of an `UPDATEBITS` (40_latch_driver.md R61; 30_encoding.md R52). -/
theorem encode_updateBits (mask value : Byte) :
    encode (.updateBits mask value) = 0x02000000#32 ||| mask.setWidth 32 <<< 16 ||| value.setWidth 32 <<< 8 := by
  simp [encode, encodeFields, Fields.toWord]

/-- Settles O11: the masked update bit by bit, and the word field by field. -/
theorem updateBitsMasksLatchState : Obligations.UpdateBitsMasksLatchState := by
  unfold Obligations.UpdateBitsMasksLatchState
  intro mask value s
  exact ⟨_, exec_updateBits_next.mpr rfl, rfl, fun k hk => maskedUpdate_getLsbD s.ls mask value hk,
    encode_updateBits mask value⟩

/-- Settles O16, whatever the flag and `EN` were. -/
theorem holdSetsFlagOnly : Obligations.HoldSetsFlagOnly := by
  unfold Obligations.HoldSetsFlagOnly
  intro s
  exact exec_hold_next.mpr rfl

/-- Settles O18: `GETSTATE` is one `respond`. -/
theorem getStateRespondsWithLatchState : Obligations.GetStateRespondsWithLatchState := by
  unfold Obligations.GetStateRespondsWithLatchState
  intro s
  exact exec_getState_next.mpr rfl

end Sys2Proof.Machine

namespace Sys2Proof.Machine

/-! ## A shared timer is programmed once -/

/-- A burst programs no timer (40_latch_driver.md R62). -/
@[simp] theorem countP_isBaseOf_txEvents (k : Timer) (v : Byte) : (txEvents v).countP (isBaseOf k) = 0 := by
  simp [txEvents, bitEvents, isBaseOf]

@[simp] theorem countP_isBaseOf_afterTransmission (k : Timer) (s : State) :
    (afterTransmission s).trace.countP (isBaseOf k) = s.trace.countP (isBaseOf k) := by
  rw [afterTransmission_trace]
  split <;> simp

@[simp] theorem countP_isBaseOf_afterEnable (P : Params) (k : Timer) (s : State) :
    (afterEnable P s).trace.countP (isBaseOf k) = s.trace.countP (isBaseOf k) := by
  rw [afterEnable_trace]
  split <;> simp [isBaseOf]

@[simp] theorem countP_isBaseOf_constructionBase (P : Params) (k : Timer) (s : State) :
    (constructionBase P s).trace.countP (isBaseOf k) = s.trace.countP (isBaseOf k) := by
  unfold constructionBase
  split <;> simp

/-- Programming channel n's base programs a shared timer k exactly when k is its timer and not yet initialised
(41_timer_backend.md R81, R82). -/
theorem countP_isBaseOf_baseEvents {P : Params} {k : Timer} (hk : timerShared P k = true) (n : Channel) (freq : Byte)
    (s : State) : (baseEvents P n freq s).countP (isBaseOf k) =
      if k = channelTimer P n ∧ timerInitialised k s = false then 1 else 0 := by
  by_cases he : k = channelTimer P n
  · subst he
    cases hi : timerInitialised (channelTimer P n) s <;> simp [baseEvents, hk, hi, isBaseOf]
  · unfold baseEvents
    split <;> simp [isBaseOf, he, Ne.symm he]

theorem countP_isBaseOf_initialisePwm (P : Params) (n : Channel) (freq : Byte) (pwm : Bool) (k : Timer) (s : State) :
    (initialisePwm P n freq pwm s).trace.countP (isBaseOf k) =
      s.trace.countP (isBaseOf k) + if pwm then (baseEvents P n freq s).countP (isBaseOf k) else 0 := by
  cases pwm <;> simp [initialisePwm_trace, initialisationEvents, isBaseOf]

/-- The invariant speaks of the timers' flags and of the bases in the history alone. -/
theorem sharedProgrammedOnce.congr {P : Params} {s t : State} (hs : sharedProgrammedOnce P s) (htinit : t.tinit = s.tinit)
    (hcount : ∀ k, t.trace.countP (isBaseOf k) = s.trace.countP (isBaseOf k)) : sharedProgrammedOnce P t := by
  intro k hk
  rw [hcount, timerInitialised_congr htinit]
  exact hs k hk

/-- An initialisation programs a shared timer only where its flag is clear, and then sets it (41_timer_backend.md R82). -/
theorem sharedProgrammedOnce.initialisePwm {P : Params} {s : State} (hs : sharedProgrammedOnce P s) (n : Channel)
    (freq : Byte) (pwm : Bool) : sharedProgrammedOnce P (initialisePwm P n freq pwm s) := by
  intro k hk
  rw [countP_isBaseOf_initialisePwm, hs k hk, timerInitialised_initialisePwm, countP_isBaseOf_baseEvents hk]
  cases pwm with
  | false => simp
  | true =>
    by_cases he : k = channelTimer P n
    · cases timerInitialised k s <;> simp [he]
    · simp [he]

/-- Every command that completes keeps the invariant: only an initialisation programs a base or sets a timer's flag. -/
theorem Completes.keeps_sharedProgrammedOnce {i : Instr} {s t : State} (h : Completes i s t)
    (hs : sharedProgrammedOnce Config.params s) : sharedProgrammedOnce Config.params t := by
  cases h with
  | pwmInit => exact hs.initialisePwm _ _ _
  | @construct _ n freq pwm =>
    have hsent : sharedProgrammedOnce Config.params (afterTransmission
        (maskedUpdate (channelMask Config.params n) 0#8 (constructionBase Config.params s))) :=
      hs.congr (by simp) (by simp)
    exact (hsent.initialisePwm n freq pwm).congr rfl fun _ => rfl
  | _ => exact hs.congr (by simp) (by simp [isBaseOf])

/-- Settles O55: issuing touches neither the timers nor the history, and an initialisation programs a shared timer exactly when it
sets a clear flag. -/
theorem stepKeepsSharedTimerOnce : Obligations.StepKeepsSharedTimerOnce := by
  unfold Obligations.StepKeepsSharedTimerOnce
  intro s t hs h
  exact step_keeps (fun _ _ hu => hu.congr rfl fun _ => rfl) Completes.keeps_sharedProgrammedOnce hs h

/-! ## Initialising a PWM pin -/

/-- A timer's base after one is programmed (41_timer_backend.md R81). -/
theorem timerBase_timerBaseCfg (t : Timer) (f : Byte) (k : Timer) (s : State) :
    timerBase k (timerBaseCfg t f s) = if k = t then f else timerBase k s := by
  split
  · next h => subst h; simp [timerBase, timerLookup_put_same]
  · next h => simp [timerBase, timerLookup_put_other _ _ h]

/-- An initialisation by hardware PWM whose timer must be programmed (41_timer_backend.md R81). -/
theorem initialisePwm_due {P : Params} {n : Channel} {s : State} (freq : Byte)
    (h : timerShared P (channelTimer P n) = true → timerInitialised (channelTimer P n) s = false) :
    initialisePwm P n freq true s =
      cmpWrite n 0#8 (chanPwmCfg n (setTimerInitialised (channelTimer P n) (timerBaseCfg (channelTimer P n) freq s))) := by
  rw [initialisePwm, if_pos rfl, programBase_due freq h]

theorem timerBase_initialisePwm_due {P : Params} {n : Channel} {s : State} (freq : Byte) (k : Timer)
    (h : timerShared P (channelTimer P n) = true → timerInitialised (channelTimer P n) s = false) :
    timerBase k (initialisePwm P n freq true s) = if k = channelTimer P n then freq else timerBase k s := by
  rw [initialisePwm_due freq h]
  exact timerBase_timerBaseCfg (channelTimer P n) freq k s

/-- An initialisation by hardware PWM on a shared timer that is initialised (41_timer_backend.md R82). -/
theorem initialisePwm_done {P : Params} {n : Channel} {s : State} (freq : Byte)
    (hs : timerShared P (channelTimer P n) = true) (hi : timerInitialised (channelTimer P n) s = true) :
    initialisePwm P n freq true s = cmpWrite n 0#8 (chanPwmCfg n s) := by
  rw [initialisePwm, if_pos rfl, programBase_done freq hs hi]

theorem exec_pwmInit_number (n : Channel) (freq : Byte) (pwm : Bool) (s : State) :
    exec (.pwmInit (channelNumber n) freq pwm) s = .next (initialisePwm Config.params n freq pwm s) :=
  exec_pwmInit_next.mpr (.inr ⟨n, channelOf_number n, rfl⟩)

/-- Settles O20: the initialisation is the one of `initialisePwm_due`. -/
theorem pwmInitProgramsTimer : Obligations.PwmInitProgramsTimer := by
  unfold Obligations.PwmInitProgramsTimer
  intro n freq s hdue
  refine ⟨_, exec_pwmInit_number n freq true s, fun k => ?_, fun k => timerBase_initialisePwm_due freq k hdue, ?_⟩
  · simp [timerInitialised_initialisePwm]
  · rw [initialisePwm_due freq hdue]
    ext1 <;> simp

/-- Settles O21: the first request finds the timer due, and every later one finds it done. -/
theorem sharedTimerFirstRequesterWins : Obligations.SharedTimerFirstRequesterWins := by
  unfold Obligations.SharedTimerFirstRequesterWins
  intro P n m freq freq' s hshared hsame
  refine ⟨fun hfirst => ⟨?_, ?_⟩, fun hset => ?_, fun hP => ?_⟩
  · simp [timerInitialised_initialisePwm]
  · rw [timerBase_initialisePwm_due freq _ fun _ => hfirst, if_pos rfl]
  · rw [← hsame] at hshared hset
    rw [initialisePwm_done freq' hshared hset]
    ext1 <;> simp
  · subst hP
    exact exec_pwmInit_number m freq' true s

/-- Settles O60: a timer of two channels is shared, so once initialised it is done, and no base is written or recorded. -/
theorem commonTimerKeepsItsBase : Obligations.CommonTimerKeepsItsBase := by
  unfold Obligations.CommonTimerKeepsItsBase
  intro P n m freq s hne hsame hset
  rw [initialisePwm_done freq (timerShared_of_common P hne hsame) hset]
  exact ⟨fun _ => ⟨rfl, rfl⟩, fun k => by simp [isBaseOf]⟩

/-- Settles O22: the fallback configures the pin and sets the mode. -/
theorem pwmInitFallbackConfiguresPin : Obligations.PwmInitFallbackConfiguresPin := by
  unfold Obligations.PwmInitFallbackConfiguresPin
  intro n freq s
  exact exec_pwmInit_number n freq false s

/-! ## Setting a duty -/

/-- Settles O23: the two modes in which a duty can be written. -/
theorem pwmSetWritesDuty : Obligations.PwmSetWritesDuty := by
  unfold Obligations.PwmSetWritesDuty
  intro n duty s
  refine ⟨fun hmode => ?_, fun hmode hpin => ?_⟩
  · exact exec_pwmSet_next.mpr (.inr ⟨n, channelOf_number n, writeDuty_eq_next.mpr (.inl ⟨hmode, rfl⟩)⟩)
  · exact exec_pwmSet_next.mpr (.inr ⟨n, channelOf_number n, writeDuty_eq_next.mpr (.inr ⟨hmode, hpin, rfl⟩)⟩)

/-- Settles O24: the threshold by its definition, and the top bit of the duty. -/
theorem fallbackThreshold : Obligations.FallbackThreshold := by
  unfold Obligations.FallbackThreshold
  intro duty
  exact ⟨decide_eq_true_iff, dutyLevel_eq_bit duty⟩

/-- Settles O25: the fraction is the compare register over 255, and dividing by a positive number is linear and keeps the order. -/
theorem dutyLawIsLinear : Obligations.DutyLawIsLinear := by
  unfold Obligations.DutyLawIsLinear dutyFraction
  refine ⟨by simp, by simp, fun a b => ?_, fun a b hab => ?_⟩
  · rw [BitVec.toNat_ofNat]
    ring
  · exact div_lt_div_of_pos_right (Nat.cast_lt.mpr hab) (by norm_num)

/-! ## Families and their timers -/

/-- Settles O8: `configure` asks whether the family is supported, and nothing else. -/
theorem onlySupportedFamilyConfigured : Obligations.OnlySupportedFamilyConfigured := by
  unfold Obligations.OnlySupportedFamilyConfigured
  intro p f
  exact ⟨fun h => ⟨_, dif_pos h, rfl, rfl⟩, fun h => dif_neg h⟩

/-- Two supported families with one mapping are one family (41_timer_backend.md R80). -/
theorem family_eq_of_timerOf_eq {p : Platform} {f g : Family} (hf : f ∈ p.supported) (hg : g ∈ p.supported)
    (h : ∀ n, p.timerOf f n = p.timerOf g n) : f = g :=
  List.inj_on_of_nodup_map p.mappings_distinct hf hg (by rw [funext h])

/-- Settles O59: the platform's constraint on `SHARED` says that a timer's channels are several, and its mappings are distinct. -/
theorem sharedTimersAreThoseOfSeveralChannels : Obligations.SharedTimersAreThoseOfSeveralChannels := by
  unfold Obligations.SharedTimersAreThoseOfSeveralChannels
  intro p
  refine ⟨fun f hf t => ?_, fun f hf g hg hne => ?_⟩
  · exact (p.shared_iff f hf t).trans (two_le_channelTimers_count (p.timerOf f) t)
  · exact not_forall.mp fun hall => hne (family_eq_of_timerOf_eq hf hg hall)

end Sys2Proof.Machine

namespace Sys2Proof.Machine

/-! ## The commands of a channel by its number -/

/-- A number outside 1 to 4 names no channel (30_encoding.md R49). -/
theorem channelOf_invalid {ch : Byte} (h : ch.toNat = 0 ∨ 5 ≤ ch.toNat) : channelOf ch = none := by
  refine channelOf_eq_none fun n hn => ?_
  subst hn
  cases n <;> simp [channelNumber] at h

theorem exec_construct_number_next {n : Channel} {freq : Byte} {pwm : Bool} {s t : State} :
    exec (.construct (channelNumber n) freq pwm) s = .next t ↔
      s.cons.get n = false ∧ (s.hold = false → serialReady (constructionBase Config.params s)) ∧
      t = recordChannel n freq pwm (initialisePwm Config.params n freq pwm
        (afterTransmission (maskedUpdate (channelMask Config.params n) 0#8 (constructionBase Config.params s)))) := by
  simp [exec_construct_next, constructChannel_eq_next]

theorem exec_setDir_number_next {n : Channel} {dir : Direction} {s t : State} :
    exec (.setDir (channelNumber n) dir) s = .next t ↔
      s.cons.get n = true ∧ (s.hold = false → serialReady s) ∧
      t = afterTransmission (maskedUpdate (channelMask Config.params n) (directionValue Config.params n dir) s) := by
  simp [exec_setDir_next]

theorem exec_setSpeed_number_next {n : Channel} {duty : Byte} {s t : State} :
    exec (.setSpeed (channelNumber n) duty) s = .next t ↔
      s.cons.get n = true ∧ writeDuty Config.params n duty s = .next t := by
  simp [exec_setSpeed_next]

/-! ## Construction -/

/-- The enabling configures the serial lines (40_latch_driver.md R60). -/
theorem serialReady_afterEnable (P : Params) (s : State) : serialReady (afterEnable P s) := by
  simp [serialReady]

theorem serialReady_constructionBase (P : Params) {s : State} (h : s.en = true → serialReady s) :
    serialReady (constructionBase P s) := by
  cases he : s.en with
  | true => rw [constructionBase_enabled P he]; exact h he
  | false => rw [constructionBase_fresh P he]; exact serialReady_afterEnable P s

/-- A masked update by zero only clears the mask's bits (40_latch_driver.md R61). -/
theorem maskedUpdate_zero (m : Byte) (s : State) : maskedUpdate m 0#8 s = { s with ls := s.ls &&& ~~~m } := by
  simp [maskedUpdate, setLatchState]

/-- Settles O26: the way a construction completes, with the clearing of the bits written out. -/
theorem constructBuildsChannel : Obligations.ConstructBuildsChannel := by
  unfold Obligations.ConstructBuildsChannel
  intro n freq pwm s hk hready
  refine ⟨_, exec_pwmInit_number .., exec_construct_number_next.mpr ⟨hk, fun hh => ?_, ?_⟩⟩
  · exact serialReady_constructionBase _ fun he => hready he hh
  · rw [maskedUpdate_zero]
    rfl

/-- Where a construction enables a block not held, the bits it clears are zero already, and its transmission is a second burst of
that zero LatchState (42_motor_channel.md R90, D20). -/
theorem afterTransmission_constructionBase_fresh (P : Params) (m : Byte) {s : State} (he : s.en = false) (hh : s.hold = false) :
    afterTransmission (maskedUpdate m 0#8 (constructionBase P s)) = afterBurst (afterEnable P s) := by
  have hclear : maskedUpdate m 0#8 (afterEnable P s) = afterEnable P s := by
    rw [maskedUpdate_zero]
    ext1 <;> simp
  rw [constructionBase_fresh P he, hclear, afterTransmission_free (by simpa using hh)]

theorem burstCount_append (xs ys : List Event) : burstCount (xs ++ ys) = burstCount xs + burstCount ys :=
  List.countP_append

/-- Settles O27: the base is `afterEnable`, the second burst is that of a zero LatchState, and the timer is due. -/
theorem firstConstructionEnables : Obligations.FirstConstructionEnables := by
  unfold Obligations.FirstConstructionEnables
  intro n freq s hk he hh hdue
  have hready : serialReady (constructionBase Config.params s) :=
    serialReady_constructionBase _ fun h => by simp [he] at h
  have hexec := exec_construct_number_next (freq := freq) (pwm := true).mpr ⟨hk, fun _ => hready, rfl⟩
  have hdue' : timerShared Config.params (channelTimer Config.params n) = true →
      timerInitialised (channelTimer Config.params n) (afterBurst (afterEnable Config.params s)) = false := by
    rwa [timerInitialised_congr (s := s) (by simp)]
  rw [afterTransmission_constructionBase_fresh _ _ he hh, initialisePwm_due freq hdue'] at hexec
  refine ⟨_, _, hexec, by simp, by simp, by simp, by simp, by simp, by simp, by simp, by simp, by simp, ?_, rfl, ?_, rfl⟩
  · simp [afterEnable_trace, hh]
  · simp only [burstCount_append, burstCount_txEvents]
    simp [burstCount]

/-- Settles O28: a number that names no channel leaves the base of a construction. -/
theorem invalidConstructionOnlyEnables : Obligations.InvalidConstructionOnlyEnables := by
  unfold Obligations.InvalidConstructionOnlyEnables
  intro ch freq pwm s hch
  have hexec : exec (.construct ch freq pwm) s = .next (constructionBase Config.params s) :=
    exec_construct_next.mpr (.inl ⟨channelOf_invalid hch, rfl⟩)
  exact ⟨fun he => by rw [hexec, constructionBase_enabled _ he], fun he => by rw [hexec, constructionBase_fresh _ he]⟩

/-- A timer's base is read off the list of bases alone. -/
theorem timerBase_congr {s t : State} (h : t.tbase = s.tbase) (k : Timer) : timerBase k t = timerBase k s := by
  rw [timerBase, timerBase, h]

/-- Settles O36: up to the transmission a construction leaves these fields alone, then it initialises channel n's PWM pin and records
channel n. -/
theorem constructFrame : Obligations.ConstructFrame := by
  unfold Obligations.ConstructFrame
  intro n freq pwm s t h
  obtain ⟨-, -, rfl⟩ := exec_construct_number_next.mp h
  obtain ⟨-, -, -, -, -, -, -, -, -, -, -, -, -, hchan, hpin, htimer⟩ := onlyPwmOf_initialisePwm n freq pwm
    (afterTransmission (maskedUpdate (channelMask Config.params n) 0#8 (constructionBase Config.params s)))
  refine ⟨by simp, by simp, by simp, by simp, by simp, fun m hm => ?_, fun k hk => ?_, fun he => ?_⟩
  · obtain ⟨hmode, hcmp⟩ := hchan m hm
    obtain ⟨hdir, hlvl, hwritten⟩ := hpin (.pwm m) (by simpa using hm)
    exact ⟨hmode.trans (by simp), hcmp.trans (by simp), by simp [perChannel_get_set_other _ _ hm],
      by simp [perChannel_get_set_other _ _ hm], by simp [perChannel_get_set_other _ _ hm], hdir.trans (by simp [PerPin.get]),
      hlvl.trans (by simp [PerPin.get]), hwritten.trans (by simp [PerPin.get])⟩
  · obtain ⟨hflag, hbase⟩ := htimer k hk
    exact ⟨hflag.trans (timerInitialised_congr (by simp) k), hbase.trans (timerBase_congr (by simp) k)⟩
  · simp [constructionBase_enabled _ he]

/-! ## Terminals -/

theorem bitB_ne_bitA (P : Params) (n m : Channel) : P.bitB n ≠ P.bitA m := by
  obtain ⟨-, -, hne⟩ := bits_apart P m n
  exact hne.symm

/-- Settles O29: bit by bit what a direction's masked update leaves. -/
theorem setDirSetsTerminals : Obligations.SetDirSetsTerminals := by
  unfold Obligations.SetDirSetsTerminals
  intro n dir s hk hready
  refine ⟨_, exec_setDir_number_next.mpr ⟨hk, hready, rfl⟩, ?_, ?_, fun k ha hb => ?_⟩
  · rw [directed_getLsbD, if_pos rfl]
  · rw [directed_getLsbD, if_neg (bitB_ne_bitA Config.params n n), if_pos rfl]
  · rw [directed_getLsbD, if_neg ha, if_neg hb]

/-- A direction of channel n leaves both terminals of another channel (42_motor_channel.md R94). -/
theorem directed_getLsbD_other (P : Params) (s : State) (dir : Direction) {n m : Channel} (hm : m ≠ n) :
    (maskedUpdate (channelMask P n) (directionValue P n dir) s).ls.getLsbD (P.bitA m).val = s.ls.getLsbD (P.bitA m).val ∧
    (maskedUpdate (channelMask P n) (directionValue P n dir) s).ls.getLsbD (P.bitB m).val = s.ls.getLsbD (P.bitB m).val := by
  obtain ⟨hA, hB, hAB⟩ := bits_apart P m n
  simp only [maskedUpdate_ls, directed_getLsbD]
  exact ⟨by rw [if_neg (mt hA hm), if_neg hAB], by rw [if_neg (bitB_ne_bitA P m n), if_neg (mt hB hm)]⟩

/-- Settles O43: a construction clears channel n's bits as the direction `release` does. -/
theorem channelsAreIsolated : Obligations.ChannelsAreIsolated := by
  unfold Obligations.ChannelsAreIsolated
  rintro n m i s t hm he (⟨dir, rfl⟩ | ⟨freq, pwm, rfl⟩) h
  · obtain ⟨-, -, rfl⟩ := exec_setDir_number_next.mp h
    simpa using directed_getLsbD_other Config.params s dir hm
  · obtain ⟨-, -, rfl⟩ := exec_construct_number_next.mp h
    simpa [constructionBase_enabled _ he, directionValue] using directed_getLsbD_other Config.params s .release hm

/-- No channel holds both terminals set. -/
def noBothTerminals (P : Params) (s : State) : Prop := ∀ n, bothTerminals P n s = false

/-- Whether a channel holds both terminals is read off LatchState alone. -/
theorem noBothTerminals.of_ls_eq {P : Params} {s t : State} (hs : noBothTerminals P s) (h : t.ls = s.ls) :
    noBothTerminals P t := by
  intro n
  rw [bothTerminals, h]
  exact hs n

/-- A cleared LatchState has no terminal set. -/
theorem noBothTerminals_of_ls_zero {P : Params} {s : State} (h : s.ls = 0#8) : noBothTerminals P s := by
  intro n
  simp [bothTerminals, h]

/-- A direction sets at most one terminal of its channel and leaves the other channels' (42_motor_channel.md R94, R96). -/
theorem noBothTerminals.directed {P : Params} {s : State} (hs : noBothTerminals P s) (n : Channel) (dir : Direction) :
    noBothTerminals P (maskedUpdate (channelMask P n) (directionValue P n dir) s) := by
  intro m
  by_cases hm : m = n
  · subst hm
    simp only [bothTerminals, maskedUpdate_ls, directed_getLsbD, if_true, if_neg (bitB_ne_bitA P m m)]
    cases dir <;> rfl
  · obtain ⟨hA, hB⟩ := directed_getLsbD_other P s dir hm
    rw [bothTerminals, hA, hB]
    exact hs m

theorem noBothTerminals.constructionBase {P : Params} {s : State} (hs : noBothTerminals P s) :
    noBothTerminals P (constructionBase P s) := by
  cases he : s.en with
  | true => rwa [constructionBase_enabled P he]
  | false => rw [constructionBase_fresh P he]; exact noBothTerminals_of_ls_zero (afterEnable_ls P s)

/-- Settles O44, by cases on the command: a public command but `SETSTATE` leaves LatchState alone, clears it in enabling, or sets a
direction, a construction that of `release`. -/
theorem onlySetStateSetsBothTerminals : Obligations.OnlySetStateSetsBothTerminals := by
  unfold Obligations.OnlySetStateSetsBothTerminals
  intro i s t hpublic hne h hs
  show noBothTerminals Config.params t
  have hs : noBothTerminals Config.params s := hs
  cases exec_completes h with
  | enable | updateBits | transmit | pwmInit | pwmInitInvalid | pwmSetHardware | pwmSetFallback | pwmSetInvalid => cases hpublic
  | setState => exact absurd rfl (hne _)
  | setDir => exact (hs.directed _ _).of_ls_eq (afterTransmission_ls _)
  | @construct _ n => exact (hs.constructionBase.directed n .release).of_ls_eq (by simp [directionValue])
  | constructInvalid => exact hs.constructionBase
  | hold | release | getState | setSpeedHardware | setSpeedFallback | setDirInvalid | setSpeedInvalid => exact hs.of_ls_eq rfl

/-! ## Speed -/

/-- Settles O30: the two modes in which a duty can be written. -/
theorem setSpeedForwardsDuty : Obligations.SetSpeedForwardsDuty := by
  unfold Obligations.SetSpeedForwardsDuty
  intro n duty s hk
  exact ⟨fun hmode => exec_setSpeed_number_next.mpr ⟨hk, writeDuty_eq_next.mpr (.inl ⟨hmode, rfl⟩)⟩,
    fun hmode hpin => exec_setSpeed_number_next.mpr ⟨hk, writeDuty_eq_next.mpr (.inr ⟨hmode, hpin, rfl⟩)⟩⟩

/-- Settles O31: the first way each of the four can complete. -/
theorem invalidChannelIsSilent : Obligations.InvalidChannelIsSilent := by
  unfold Obligations.InvalidChannelIsSilent
  intro ch s hch
  have hnone := channelOf_invalid hch
  exact ⟨fun dir => exec_setDir_next.mpr (.inl ⟨hnone, rfl⟩), fun duty => exec_setSpeed_next.mpr (.inl ⟨hnone, rfl⟩),
    fun freq pwm => exec_pwmInit_next.mpr (.inl ⟨hnone, rfl⟩), fun duty => exec_pwmSet_next.mpr (.inl ⟨hnone, rfl⟩)⟩

/-! ## Repeating a direction or a speed -/

theorem perChannel_set_set {α : Type} (v : PerChannel α) (n : Channel) (x : α) : (v.set n x).set n x = v.set n x := by
  cases n <;> rfl

theorem perPin_set_set {α : Type} (v : PerPin α) (p : Pin) (x : α) : (v.set p x).set p x = v.set p x := by
  cases p <;> simp [PerPin.set, perChannel_set_set]

/-- A masked update of a value it has given already gives it again (40_latch_driver.md R61). -/
theorem maskedUpdate_of_ls_eq {m v ls : Byte} {s : State} (h : s.ls = (ls &&& ~~~m) ||| v) : maskedUpdate m v s = s := by
  have hfix : (s.ls &&& ~~~m) ||| v = s.ls := by
    rw [h]
    apply BitVec.eq_of_getLsbD_eq
    intro k hk
    rw [maskedUpdate_getLsbD _ _ _ hk, maskedUpdate_getLsbD _ _ _ hk]
    cases m.getLsbD k <;> simp
  rw [maskedUpdate, hfix]
  rfl

/-- A second transmission of the same LatchState adds to the history alone (40_latch_driver.md R62). -/
theorem afterTransmission_twice (s : State) :
    { afterTransmission (afterTransmission s) with trace := (afterTransmission s).trace } = afterTransmission s := by
  cases hh : s.hold with
  | true => simp [afterTransmission_held hh]
  | false =>
    rw [afterTransmission_free hh, afterTransmission_free (s := afterBurst s) hh]
    rfl

/-- Setting a duty again completes again and adds to the history alone (42_motor_channel.md R95). -/
theorem writeDuty_again {P : Params} {n : Channel} {duty : Byte} {s t : State} (h : writeDuty P n duty s = .next t) :
    ∃ u, writeDuty P n duty t = .next u ∧ { u with trace := t.trace } = t := by
  rcases writeDuty_eq_next.mp h with ⟨hmode, rfl⟩ | ⟨hmode, hpin, rfl⟩
  · refine ⟨_, writeDuty_eq_next.mpr (.inl ⟨hmode, rfl⟩), ?_⟩
    ext1 <;> simp [perChannel_set_set]
  · refine ⟨_, writeDuty_eq_next.mpr (.inr ⟨hmode, hpin, rfl⟩), ?_⟩
    ext1 <;> simp [perPin_set_set]

/-- Settles O45: an invalid channel does nothing twice; a repeated direction finds its bits set and transmits them again; a repeated
duty finds its compare register or its pin at the value. -/
theorem directionAndSpeedIdempotent : Obligations.DirectionAndSpeedIdempotent := by
  unfold Obligations.DirectionAndSpeedIdempotent
  rintro i s t (⟨ch, dir, rfl⟩ | ⟨ch, duty, rfl⟩) h
  · rcases exec_setDir_next.mp h with ⟨hc, rfl⟩ | ⟨n, hc, hk, hready, rfl⟩
    · exact ⟨_, h, rfl⟩
    · refine ⟨_, exec_setDir_next.mpr (.inr ⟨n, hc, by simpa using hk, by simpa [serialReady] using hready, rfl⟩), ?_⟩
      rw [maskedUpdate_of_ls_eq (ls := s.ls) (by simp)]
      exact afterTransmission_twice _
  · rcases exec_setSpeed_next.mp h with ⟨hc, rfl⟩ | ⟨n, hc, hk, hw⟩
    · exact ⟨_, h, rfl⟩
    · obtain ⟨u, hu, heq⟩ := writeDuty_again hw
      obtain ⟨-, -, hcons⟩ := (exec_completes h).keeps_onceFlags
      exact ⟨u, exec_setSpeed_next.mpr (.inr ⟨n, hc, hcons n hk, hu⟩), heq⟩

end Sys2Proof.Machine

namespace Sys2Proof.Machine

/-! ## The latch chip at a clock or latch write -/

/-- `observe` at the clock is `observeClock`, so a clock write is stated by it (60_exceptions.md R109). -/
theorem pinWrite_clk (P : Params) (level : Bool) {s : State} (hdir : s.pinDir.clk = .output) :
    pinWrite P .clk level s = .next (record (.write .clk level) (setLevel .clk level (observeClock level s))) :=
  pinWrite_eq_next.mpr ⟨hdir, rfl⟩

/-- `observe` at the latch is `observeLatch`, so a latch write is stated by it (60_exceptions.md R110). -/
theorem pinWrite_latch (P : Params) (level : Bool) {s : State} (hdir : s.pinDir.latch = .output) :
    pinWrite P .latch level s = .next (record (.write .latch level) (setLevel .latch level (observeLatch level s))) :=
  pinWrite_eq_next.mpr ⟨hdir, rfl⟩

@[simp] theorem shiftIn_getLsbD_zero (sr : Byte) (d : Bool) : (shiftIn sr d).getLsbD 0 = d := by
  simp [shiftIn]

theorem shiftIn_getLsbD_succ (sr : Byte) (d : Bool) {k : Nat} (hk : k < 7) :
    (shiftIn sr d).getLsbD (k + 1) = sr.getLsbD k := by
  simp [shiftIn, BitVec.getLsbD_concat_succ, hk]

section Clock

variable {s : State}

@[simp] theorem observeClock_low : observeClock false s = s := rfl

theorem observeClock_stays_high (hw : s.pinWritten.clk = true) (hl : s.pinLvl.clk = true) : observeClock true s = s := by
  simp [observeClock, hw, hl]

theorem observeClock_rising (hw : s.pinWritten.clk = true) (hl : s.pinLvl.clk = false) :
    observeClock true s = { s with sr := shiftIn s.sr s.pinLvl.data } := by
  simp [observeClock, hw, hl]

theorem observeClock_unwritten (hw : s.pinWritten.clk = false) :
    observeClock true s = { s with sr := Config.freeSR s.draws, draws := s.draws + 1 } := by
  simp [observeClock, hw]

/-- No clock write commits (60_exceptions.md R109). -/
@[simp] theorem observeClock_q (level : Bool) : (observeClock level s).q = s.q := by
  simp [observeClock, apply_ite State.q]

end Clock

/-- No latch write shifts (60_exceptions.md R110). -/
@[simp] theorem observeLatch_sr (level : Bool) (s : State) : (observeLatch level s).sr = s.sr := by
  simp [observeLatch, apply_ite State.sr]

theorem observeLatch_q (level : Bool) (s : State) :
    (observeLatch level s).q = if level = true ∧ s.pinLvl.latch = false then s.sr else s.q := by
  simp [observeLatch, apply_ite State.q]

/-- Settles O50: the new level and the event leave the chip alone, so each case is the observer's at that clock write. -/
theorem clockEdgeShifts : Obligations.ClockEdgeShifts := by
  unfold Obligations.ClockEdgeShifts
  intro level s hdir
  refine ⟨_, pinWrite_clk _ level hdir, by simp, ?low, ?staysHigh, ?rising, ?unwritten⟩
  case low =>
    rintro rfl
    simp
  case staysHigh =>
    rintro rfl hw hl
    simp [observeClock_stays_high hw hl]
  case rising =>
    rintro rfl hw hl
    rw [observeClock_rising hw hl]
    exact ⟨rfl, shiftIn_getLsbD_zero _ _, fun k hk => shiftIn_getLsbD_succ _ _ hk⟩
  case unwritten =>
    rintro rfl hw
    simp [observeClock_unwritten hw]

/-- Settles O51: the new level and the event leave the chip alone, and the observer commits on a rising edge alone. -/
theorem latchEdgeCommits : Obligations.LatchEdgeCommits := by
  unfold Obligations.LatchEdgeCommits
  intro level s hdir
  exact ⟨_, pinWrite_latch _ level hdir, observeLatch_sr level s, observeLatch_q level s⟩

end Sys2Proof.Machine

namespace Sys2Proof.Machine

/-! ## The boot order -/

/-- Two lists of commands run one after the other (70_reset_and_hazards.md R135). -/
theorem runInstrs_append (is js : List Instr) (s : State) :
    runInstrs (is ++ js) s = andThen (runInstrs is s) (runInstrs js) := by
  induction is generalizing s with
  | nil => rfl
  | cons i is ih =>
    simp only [List.cons_append, runInstrs, andThen_assoc]
    exact congrArg (andThen (exec i s)) (funext ih)

/-- The construction of a listed channel with its frequency code and its PWM flag. -/
def constructCommand (e : Channel × Byte × Bool) : Instr := .construct (channelNumber e.1) e.2.1 e.2.2

/-- What every construction of the boot order leaves of the block itself: enabled, LatchState zero, the outputs driven, the serial
lines configured, and the chip in step with LatchState unless held (70_reset_and_hazards.md R122). -/
structure Booted (s : State) : Prop where
  enabled : s.en = true
  cleared : s.ls = 0#8
  driven : s.qen = true
  ready : serialReady s
  mirror : mirrored s

theorem Booted.chip_zero {s : State} (hs : Booted s) (hh : s.hold = false) : s.q = 0#8 := by
  obtain ⟨hq, -⟩ := hs.mirror hs.enabled hh
  rw [hq, hs.cleared]

/-- The lazy enabling boots a block that is not enabled, held or not (42_motor_channel.md R90, D14). -/
theorem booted_constructionBase (P : Params) {s : State} (he : s.en = false) : Booted (constructionBase P s) := by
  rw [constructionBase_fresh P he]
  exact ⟨afterEnable_en P s, afterEnable_ls P s, afterEnable_qen P s, serialReady_afterEnable P s, mirrored_afterEnable P s⟩

/-- A release of a booted block sends its zero LatchState to the chip (40_latch_driver.md R64). -/
theorem Booted.release {s : State} (hs : Booted s) : Booted (afterBurst (setHold false s)) :=
  ⟨hs.enabled, hs.cleared, hs.driven, hs.ready, mirrored_afterBurst _⟩

/-- From s to t nothing of channel n changed: what `Obligations.ConstructFrame` says of every channel but the constructed one. -/
def channelKept (n : Channel) (s t : State) : Prop :=
  t.pmode.get n = s.pmode.get n ∧ t.cmp.get n = s.cmp.get n ∧ t.cons.get n = s.cons.get n ∧
  t.freq.get n = s.freq.get n ∧ t.pwmen.get n = s.pwmen.get n ∧ t.pinDir.get (.pwm n) = s.pinDir.get (.pwm n) ∧
  t.pinLvl.get (.pwm n) = s.pinLvl.get (.pwm n) ∧ t.pinWritten.get (.pwm n) = s.pinWritten.get (.pwm n)

theorem channelKept_refl (n : Channel) (s : State) : channelKept n s s := ⟨rfl, rfl, rfl, rfl, rfl, rfl, rfl, rfl⟩

theorem channelKept.trans {n : Channel} {s t u : State} (h : channelKept n s t) (h' : channelKept n t u) :
    channelKept n s u := by
  obtain ⟨hmode, hcmp, hcons, hfreq, hpwmen, hdir, hlvl, hwritten⟩ := h
  obtain ⟨hmode', hcmp', hcons', hfreq', hpwmen', hdir', hlvl', hwritten'⟩ := h'
  exact ⟨hmode'.trans hmode, hcmp'.trans hcmp, hcons'.trans hcons, hfreq'.trans hfreq, hpwmen'.trans hpwmen,
    hdir'.trans hdir, hlvl'.trans hlvl, hwritten'.trans hwritten⟩

theorem channelKept_constructionBase (P : Params) (n : Channel) (s : State) : channelKept n s (constructionBase P s) := by
  simp [channelKept, PerPin.get]

/-- From s to t channel n was constructed: recorded, and in its mode at duty 0 or with its level untouched
(42_motor_channel.md R90; 41_timer_backend.md R81). -/
def channelBuilt (n : Channel) (freq : Byte) (pwm : Bool) (s t : State) : Prop :=
  t.cons.get n = true ∧ t.freq.get n = freq ∧ t.pwmen.get n = pwm ∧
  (pwm = true → t.pmode.get n = .pwm ∧ t.cmp.get n = 0#8) ∧
  (pwm = false → t.pmode.get n = .digital ∧ t.pinLvl.get (.pwm n) = s.pinLvl.get (.pwm n) ∧
    t.pinWritten.get (.pwm n) = s.pinWritten.get (.pwm n))

theorem channelBuilt.of_kept_before {n : Channel} {freq : Byte} {pwm : Bool} {s t u : State} (h : channelKept n s t)
    (h' : channelBuilt n freq pwm t u) : channelBuilt n freq pwm s u := by
  obtain ⟨-, -, -, -, -, -, hlvl, hwritten⟩ := h
  simpa only [channelBuilt, hlvl, hwritten] using h'

theorem channelBuilt.of_kept_after {n : Channel} {freq : Byte} {pwm : Bool} {s t u : State} (h : channelBuilt n freq pwm s t)
    (h' : channelKept n t u) : channelBuilt n freq pwm s u := by
  obtain ⟨hmode, hcmp, hcons, hfreq, hpwmen, -, hlvl, hwritten⟩ := h'
  simpa only [channelBuilt, hmode, hcmp, hcons, hfreq, hpwmen, hlvl, hwritten] using h

theorem channelBuilt_of_construct {n : Channel} {freq : Byte} {pwm : Bool} {s t : State}
    (h : exec (.construct (channelNumber n) freq pwm) s = .next t) : channelBuilt n freq pwm s t := by
  obtain ⟨-, -, rfl⟩ := exec_construct_number_next.mp h
  cases pwm <;> simp [channelBuilt, initialisePwm_pmode, initialisePwm_cmp, PerPin.get]

/-- A construction in a booted block clears bits that are zero already, and transmits the zero LatchState
(42_motor_channel.md R90, D20). -/
theorem Booted.construct {n : Channel} {freq : Byte} {pwm : Bool} {s t : State} (hs : Booted s)
    (h : exec (.construct (channelNumber n) freq pwm) s = .next t) : Booted t := by
  have hmirror : mirrored t := publicCommandsKeepMirror _ s t rfl hs.mirror h
  obtain ⟨-, -, rfl⟩ := exec_construct_number_next.mp h
  rw [constructionBase_enabled _ hs.enabled] at hmirror ⊢
  refine ⟨by simp [hs.enabled], by simp [hs.cleared], by simp [hs.driven], ?_, hmirror⟩
  obtain ⟨hdata, hclk, hlatch⟩ := hs.ready
  cases pwm <;> simp [serialReady, initialisePwm_pinDir, PerPin.set, hdata, hclk, hlatch]

theorem Booted.construct_completes {n : Channel} {s : State} (hs : Booted s) (hk : s.cons.get n = false) (freq : Byte)
    (pwm : Bool) : ∃ t, exec (.construct (channelNumber n) freq pwm) s = .next t :=
  ⟨_, exec_construct_number_next.mpr ⟨hk, fun _ => serialReady_constructionBase _ fun _ => hs.ready, rfl⟩⟩

/-- A construction enables first, so it does the same where that was done before it (42_motor_channel.md R90). -/
theorem exec_construct_constructionBase (ch freq : Byte) (pwm : Bool) (s : State) :
    exec (.construct ch freq pwm) (constructionBase Config.params s) = exec (.construct ch freq pwm) s := by
  simp only [exec, execConstruct, construction, constructionBase_cons, lazyEnable_completes,
    constructionBase_enabled _ (constructionBase_en Config.params s)]

/-- From s to t exactly the listed channels were constructed. -/
def channelsBuilt (cs : List (Channel × Byte × Bool)) (s t : State) : Prop :=
  (∀ e ∈ cs, channelBuilt e.1 e.2.1 e.2.2 s t) ∧ ∀ n, n ∉ cs.map (fun e => e.1) → channelKept n s t

theorem channelsBuilt.of_kept_before {cs : List (Channel × Byte × Bool)} {s t u : State} (h : ∀ n, channelKept n s t)
    (h' : channelsBuilt cs t u) : channelsBuilt cs s u := by
  obtain ⟨hbuilt, hkept⟩ := h'
  exact ⟨fun e he => (hbuilt e he).of_kept_before (h e.1), fun n hn => (h n).trans (hkept n hn)⟩

/-- A construction and then those of other channels. -/
theorem channelsBuilt_cons {e : Channel × Byte × Bool} {cs : List (Channel × Byte × Bool)} {s t u : State}
    (hnew : e.1 ∉ cs.map (fun e => e.1)) (h : exec (constructCommand e) s = .next t) (h' : channelsBuilt cs t u) :
    channelsBuilt (e :: cs) s u := by
  obtain ⟨hbuilt, hkept⟩ := h'
  obtain ⟨-, -, -, -, -, hother, -, -⟩ := constructFrame _ _ _ s t h
  refine ⟨fun d hd => ?_, fun n hn => ?_⟩
  · rcases List.mem_cons.mp hd with rfl | hd
    · exact (channelBuilt_of_construct h).of_kept_after (hkept _ hnew)
    · have hne : d.1 ≠ e.1 := ne_of_mem_of_not_mem (List.mem_map_of_mem hd) hnew
      exact (hbuilt d hd).of_kept_before (hother d.1 hne)
  · obtain ⟨hne, hn⟩ := List.ne_and_not_mem_of_not_mem_cons hn
    exact channelKept.trans (hother n hne) (hkept n hn)

/-- Constructions of distinct channels in a booted block complete, by induction on their list. -/
theorem Booted.run_constructions {cs : List (Channel × Byte × Bool)} {s : State} (hs : Booted s)
    (hdistinct : (cs.map (fun e => e.1)).Nodup) (hk : ∀ e ∈ cs, s.cons.get e.1 = false) :
    ∃ t, runInstrs (cs.map constructCommand) s = .next t ∧ Booted t ∧ t.hold = s.hold ∧ channelsBuilt cs s t := by
  induction cs generalizing s with
  | nil => exact ⟨s, rfl, hs, rfl, by simp [channelsBuilt, channelKept_refl]⟩
  | cons e cs ih =>
    obtain ⟨hnew, hdistinct⟩ := List.nodup_cons.mp hdistinct
    obtain ⟨t, ht⟩ := hs.construct_completes (hk e List.mem_cons_self) e.2.1 e.2.2
    obtain ⟨hhold, -, -, -, -, hother, -, -⟩ := constructFrame _ _ _ s t ht
    have hkt : ∀ d ∈ cs, t.cons.get d.1 = false := fun d hd => by
      have hne : d.1 ≠ e.1 := ne_of_mem_of_not_mem (List.mem_map_of_mem hd) hnew
      obtain ⟨-, -, hcons, -⟩ := hother d.1 hne
      rw [hcons, hk d (List.mem_cons_of_mem e hd)]
    obtain ⟨u, hu, hbooted, hhold', hbuilt⟩ := ih (hs.construct ht) hdistinct hkt
    exact ⟨u, andThen_eq_next.mpr ⟨t, ht, hu⟩, hbooted, hhold'.trans hhold, channelsBuilt_cons hnew ht hbuilt⟩

/-- The constructions of the boot order, from a block not enabled, held or not (70_reset_and_hazards.md R122, D14): they run as
they would in the block enabled beforehand. -/
theorem run_first_constructions {cs : List (Channel × Byte × Bool)} {s : State} (hne : cs ≠ [])
    (hdistinct : (cs.map (fun e => e.1)).Nodup) (he : s.en = false) (hk : ∀ n, s.cons.get n = false) :
    ∃ t, runInstrs (cs.map constructCommand) s = .next t ∧ Booted t ∧ t.hold = s.hold ∧ channelsBuilt cs s t := by
  have hbase : runInstrs (cs.map constructCommand) (constructionBase Config.params s) = runInstrs (cs.map constructCommand) s := by
    obtain ⟨e, cs, rfl⟩ := List.exists_cons_of_ne_nil hne
    simp only [List.map_cons, runInstrs, constructCommand, exec_construct_constructionBase]
  obtain ⟨t, ht, hbooted, hhold, hbuilt⟩ :=
    (booted_constructionBase Config.params he).run_constructions hdistinct fun e _ => by simpa using hk e.1
  exact ⟨t, hbase ▸ ht, hbooted, by simpa using hhold,
    hbuilt.of_kept_before fun n => channelKept_constructionBase Config.params n s⟩

/-- The boot order with or without a hold window: the window's `RELEASE` sends the burst that the constructions left out
(40_latch_driver.md R69). -/
theorem run_boot_order (held : Bool) {cs : List (Channel × Byte × Bool)} {s : State} (hne : cs ≠ [])
    (hdistinct : (cs.map (fun e => e.1)).Nodup) (he : s.en = false) (hh : s.hold = false) (hk : ∀ n, s.cons.get n = false) :
    ∃ t, runInstrs ((if held then [Instr.hold] else []) ++ cs.map constructCommand ++ (if held then [Instr.release] else [])) s
        = .next t ∧ Booted t ∧ t.hold = false ∧ channelsBuilt cs s t := by
  cases held with
  | false =>
    obtain ⟨t, ht, hbooted, hhold, hbuilt⟩ := run_first_constructions hne hdistinct he hk
    exact ⟨t, by simpa using ht, hbooted, hhold.trans hh, hbuilt⟩
  | true =>
    obtain ⟨u, hu, hbooted, -, hbuilt⟩ := run_first_constructions (s := setHold true s) hne hdistinct he hk
    have hrelease : runInstrs [.release] u = .next (afterBurst (setHold false u)) :=
      andThen_eq_next.mpr ⟨_, exec_release_next.mpr ⟨hbooted.ready, rfl⟩, rfl⟩
    have hrun : runInstrs ([.hold] ++ cs.map constructCommand) s = .next u := hu
    exact ⟨_, by rw [if_pos rfl, if_pos rfl, runInstrs_append, hrun, andThen_next, hrelease], hbooted.release, rfl, hbuilt⟩

/-- Settles O49: the first construction enables, each further one finds a booted block and leaves one, and no channel is touched by
another's construction. -/
theorem bootOrderYieldsReadyBlock : Obligations.BootOrderYieldsReadyBlock := by
  unfold Obligations.BootOrderYieldsReadyBlock
  intro held cs s hne hdistinct he hh hk
  obtain ⟨t, ht, hbooted, hhold, hbuilt, hkept⟩ := run_boot_order held hne hdistinct he hh hk
  refine ⟨t, ht, hbooted.enabled, hhold, hbooted.cleared, hbooted.chip_zero hhold, hbooted.driven, hbuilt, fun n hn => ?_⟩
  obtain ⟨hmode, hcmp, hcons, hfreq, hpwmen, -⟩ := hkept n hn
  exact ⟨hcons.trans (hk n), hmode, hcmp, hfreq, hpwmen⟩

end Sys2Proof.Machine

namespace Sys2Proof.Machine

/-! ## The output-enable line is written once -/

/-- A burst drives the serial lines only (40_latch_driver.md R62). -/
@[simp] theorem countP_isOutputEnableWrite_txEvents (v : Byte) : (txEvents v).countP isOutputEnableWrite = 0 := by
  simp [txEvents, bitEvents, isOutputEnableWrite]

@[simp] theorem countP_isOutputEnableWrite_afterTransmission (s : State) :
    (afterTransmission s).trace.countP isOutputEnableWrite = s.trace.countP isOutputEnableWrite := by
  rw [afterTransmission_trace]
  split <;> simp

/-- Enabling ends with the one write of the output-enable line, held or not (40_latch_driver.md R60). -/
@[simp] theorem countP_isOutputEnableWrite_afterEnable (P : Params) (s : State) :
    (afterEnable P s).trace.countP isOutputEnableWrite = s.trace.countP isOutputEnableWrite + 1 := by
  rw [afterEnable_trace]
  split <;> simp [isOutputEnableWrite]

/-- An initialisation records timer events or the configuration of a PWM pin, and no pin write (41_timer_backend.md R81). -/
@[simp] theorem countP_isOutputEnableWrite_initialisePwm (P : Params) (n : Channel) (freq : Byte) (pwm : Bool) (s : State) :
    (initialisePwm P n freq pwm s).trace.countP isOutputEnableWrite = s.trace.countP isOutputEnableWrite := by
  rw [initialisePwm_trace, initialisationEvents, baseEvents]
  split
  · split <;> simp [isOutputEnableWrite]
  · simp [isOutputEnableWrite]

/-- The invariant speaks of `EN` and of the output-enable writes in the history alone. -/
theorem outputEnableWrittenOnce.congr {s t : State} (hs : outputEnableWrittenOnce s) (hen : t.en = s.en)
    (hcount : t.trace.countP isOutputEnableWrite = s.trace.countP isOutputEnableWrite) : outputEnableWrittenOnce t := by
  rw [outputEnableWrittenOnce, hcount, hen]
  exact hs

/-- Enabling starts from a history without the write, since `EN` was 0, and sets `EN` with it (40_latch_driver.md R60). -/
theorem outputEnableWrittenOnce.afterEnable {s : State} (hs : outputEnableWrittenOnce s) (P : Params) (he : s.en = false) :
    outputEnableWrittenOnce (afterEnable P s) := by
  have hnone : s.trace.countP isOutputEnableWrite = 0 := by simpa [outputEnableWrittenOnce, he] using hs
  simp [outputEnableWrittenOnce, hnone]

theorem outputEnableWrittenOnce.constructionBase {s : State} (hs : outputEnableWrittenOnce s) (P : Params) :
    outputEnableWrittenOnce (constructionBase P s) := by
  cases he : s.en with
  | true => rwa [constructionBase_enabled P he]
  | false => rw [constructionBase_fresh P he]; exact hs.afterEnable P he

/-- Every command that completes keeps the invariant: only an enabling of a block that is not enabled writes the line or sets
`EN`. -/
theorem Completes.keeps_outputEnableWrittenOnce {i : Instr} {s t : State} (h : Completes i s t)
    (hs : outputEnableWrittenOnce s) : outputEnableWrittenOnce t := by
  cases h with
  | enable fresh => exact hs.afterEnable _ fresh
  | construct => exact (hs.constructionBase Config.params).congr (by simp) (by simp)
  | constructInvalid => exact hs.constructionBase _
  | _ => exact hs.congr (by simp) (by simp [isOutputEnableWrite])

/-- Settles O56: issuing touches neither `EN` nor the history, and the line is written exactly when a clear `EN` is set. -/
theorem stepKeepsOutputEnableOnce : Obligations.StepKeepsOutputEnableOnce := by
  unfold Obligations.StepKeepsOutputEnableOnce
  intro s t hs h
  exact step_keeps (fun _ _ hu => hu.congr rfl rfl) Completes.keeps_outputEnableWrittenOnce hs h

end Sys2Proof.Machine
